-- ==== Sys2Proof/Word.lean ====
section
/-! DEFINITION. The words of the block: bytes, 32-bit registers, symbols and bit strings
(00_scope.md R10, R12 to R14). -/

namespace Sys2Proof

/-- A byte of IN_MEM, OUT_MEM or of a byte sequence (00_scope.md R13, R15). -/
abbrev Byte := BitVec 8

/-- A register, a bus datum or a bus address: 32 bits (00_scope.md R10). -/
abbrev Word := BitVec 32

/-- A symbol: a Unicode scalar value, as an unbounded number (41_text_and_frequency.md R160, 00_scope.md R12; log entry 9, DEDUCED). -/
abbrev Symbol := Nat

/-- A bit string, first bit first (00_scope.md R14). -/
abbrev Bits := List Bool

end Sys2Proof
end

