-- ==== Sys2Proof/Syntax.lean ====
section
/-! DEFINITION. The command words: one constructor per row of spec/opcode_table.json, in the table's order
(30_encoding.md R100 to R102). -/

namespace Sys2Proof

/-- A decoded command word. RSVD is bits [31:4] and OP bits [3:0] (30_encoding.md R100); a row that fixes part of OP
keeps only the bits it leaves open. -/
inductive Instr where
  /-- 0x00000000 (40_commands.md R141). -/
  | nop
  /-- 0x00000001 (40_commands.md R143). -/
  | compress
  /-- 0x00000002 (40_commands.md R144). -/
  | decompress
  /-- OP = 0x3, any RSVD: RESERVED_OP (40_commands.md R142). -/
  | illegalOp3 (rsvd : BitVec 28)
  /-- OP = 0x4 to 0x7 (`lo` is OP[1:0]), any RSVD: RESERVED_OP (40_commands.md R142). -/
  | illegalOp47 (rsvd : BitVec 28) (lo : BitVec 2)
  /-- OP = 0x8 to 0xF (`lo` is OP[2:0]), any RSVD: RESERVED_OP (40_commands.md R142). -/
  | illegalOp8F (rsvd : BitVec 28) (lo : BitVec 3)
  /-- OP = 0x0, 0x1 or 0x2 (`op` is OP[1:0]) with RSVD != 0: RESERVED_BITS (40_commands.md R142). -/
  | illegalBits (rsvd : BitVec 28) (op : BitVec 2)
  deriving DecidableEq, Repr

end Sys2Proof
end

