-- ==== Sys2Proof/WellFormed.lean ====
section
/-! DEFINITION. Which terms of `Instr` a command word can decode to. -/

namespace Sys2Proof

/-- The catch-all row is reached only with OP = 0, 1 or 2 and RSVD != 0 (30_encoding.md R102, the table's last row);
every other row takes every value of the bits it leaves open. -/
def Instr.wellFormed : Instr → Bool
  | .nop => true
  | .compress => true
  | .decompress => true
  | .illegalOp3 _ => true
  | .illegalOp47 _ _ => true
  | .illegalOp8F _ _ => true
  | .illegalBits rsvd op => rsvd != 0#28 && op != 3#2

/-- The check as a proposition. -/
abbrev Instr.WellFormed (i : Instr) : Prop := i.wellFormed = true

end Sys2Proof
end

