-- ==== Sys2Proof/Decode.lean ====
section
/-! DEFINITION. The command-word decoder, the encoder, and the opcode table as data
(30_encoding.md R100 to R102, spec/opcode_table.json). -/

namespace Sys2Proof

/-! ## Fields -/

/-- OP, bits [3:0] of a command word (30_encoding.md R100). -/
def opField (w : Word) : BitVec 4 := w.extractLsb' 0 4

/-- RSVD, bits [31:4] of a command word (30_encoding.md R100). -/
def rsvdField (w : Word) : BitVec 28 := w.extractLsb' 4 28

/-! ## The decoder -/

/-- The command a word stands for (30_encoding.md R102): the OP check comes first, then the reserved bits, then the
command. Every word decodes: an illegal word is a row of the table like any other. -/
def decode (w : Word) : Instr :=
  if w.getLsbD 3 then .illegalOp8F (rsvdField w) (w.extractLsb' 0 3)
  else if w.getLsbD 2 then .illegalOp47 (rsvdField w) (w.extractLsb' 0 2)
  else if opField w = 3#4 then .illegalOp3 (rsvdField w)
  else if rsvdField w ≠ 0#28 then .illegalBits (rsvdField w) (w.extractLsb' 0 2)
  else if opField w = 0#4 then .nop
  else if opField w = 1#4 then .compress
  else .decompress

/-- Why a byte string is not a command word. -/
inductive DecodeError where
  /-- A command word is exactly four bytes, "one fixed length, 32 bits" (30_encoding.md R116). -/
  | notFourBytes
  deriving DecidableEq, Repr

/-- The word that four bytes carry on the bus, the byte at the lowest address in bits [7:0] (20_memory.md R76). -/
def wordOfLanes (b0 b1 b2 b3 : Byte) : Word := b3 ++ b2 ++ b1 ++ b0

/-- The bytes of a word in lane order: byte k is bits [8k+7:8k] (20_memory.md R76, R77). -/
def lanesOfWord (w : Word) : List Byte :=
  [w.extractLsb' 0 8, w.extractLsb' 8 8, w.extractLsb' 16 8, w.extractLsb' 24 8]

/-- Decode the bytes a command word stands in, in lane order; any other number of bytes is rejected by name. -/
def decodeBytes : List Byte → Except DecodeError Instr
  | [b0, b1, b2, b3] => .ok (decode (wordOfLanes b0 b1 b2 b3))
  | _ => .error .notFourBytes

/-- The instruction the decoder reads from a table row's bits: bit 0 is the least significant bit of the one word, and
every bit above `nbits` is 0. A row has at most 32 bits. -/
def decodeTableWord (nbits w : Nat) : Option Instr :=
  if nbits ≤ 32 then
    match decodeBytes (lanesOfWord (BitVec.ofNat 32 (w % 2 ^ nbits))) with
    | .ok i => some i
    | .error _ => none
  else none

/-! ## The encoder -/

/-- The word with the given RSVD and OP fields (30_encoding.md R100). -/
def commandWord (rsvd : BitVec 28) (op : BitVec 4) : Word := rsvd ++ op

/-- The word of an instruction (30_encoding.md R101, spec/opcode_table.json column "encoding"). -/
def encode : Instr → Word
  | .nop => commandWord 0#28 0#4
  | .compress => commandWord 0#28 1#4
  | .decompress => commandWord 0#28 2#4
  | .illegalOp3 rsvd => commandWord rsvd 3#4
  | .illegalOp47 rsvd lo => commandWord rsvd (1#2 ++ lo)
  | .illegalOp8F rsvd lo => commandWord rsvd (1#1 ++ lo)
  | .illegalBits rsvd op => commandWord rsvd (0#2 ++ op)

/-! ## The opcode table as data -/

/-- The rows of spec/opcode_table.json. -/
inductive RowName where
  | nop | compress | decompress | illegalOp3 | illegalOp47 | illegalOp8F | illegalBits
  deriving DecidableEq, Repr

/-- A row's "mask" and "match", and which row it is. -/
structure Row where
  name : RowName
  mask : Word
  bits : Word
  deriving DecidableEq, Repr

/-- The opcode table. "Rows are listed in decode order and the first row that matches wins." -/
def opcodeTable : List Row :=
  [ ⟨.nop, 0xFFFFFFFF#32, 0x00000000#32⟩,
    ⟨.compress, 0xFFFFFFFF#32, 0x00000001#32⟩,
    ⟨.decompress, 0xFFFFFFFF#32, 0x00000002#32⟩,
    ⟨.illegalOp3, 0x0000000F#32, 0x00000003#32⟩,
    ⟨.illegalOp47, 0x0000000C#32, 0x00000004#32⟩,
    ⟨.illegalOp8F, 0x00000008#32, 0x00000008#32⟩,
    ⟨.illegalBits, 0x00000000#32, 0x00000000#32⟩ ]

/-- A word is in a row when it has the row's match under the row's mask. -/
def Row.holds (r : Row) (w : Word) : Bool := w &&& r.mask == r.bits

/-- The row of an instruction. -/
def Instr.row : Instr → RowName
  | .nop => .nop
  | .compress => .compress
  | .decompress => .decompress
  | .illegalOp3 _ => .illegalOp3
  | .illegalOp47 _ _ => .illegalOp47
  | .illegalOp8F _ _ => .illegalOp8F
  | .illegalBits _ _ => .illegalBits

/-- The first row of the table that a word is in. -/
def firstRow (w : Word) : Option RowName := (opcodeTable.find? (·.holds w)).map (·.name)

end Sys2Proof
end

