-- ==== Sys2Proof/Machine/Work.lean ====
section
/-! DEFINITION. The types of the engine's internal working state (10_state.md R44). -/

namespace Sys2Proof.Machine

/-- The frequency table: an ordered map Symbol to count (41_text_and_frequency.md R162; log entry 9,
DEDUCED). -/
abbrev Freq := List (Symbol × Nat)

/-- The priority queue: (priority, node index) pairs in ascending priority order (42_priority_queue.md R180). -/
abbrev Queue := List (Nat × Nat)

/-- A node of the arena (43_tree_builder.md R200). -/
inductive Node where
  | leaf (symbol : Symbol) (freq : Nat)
  | internal (freq left right : Nat)
  deriving DecidableEq, Repr

/-- The node arena, addressed by index (43_tree_builder.md R200). -/
abbrev Arena := List Node

/-- The code table: an ordered map Symbol to bit string (44_code_tables.md R220). -/
abbrev Codes := List (Symbol × Bits)

/-- The reverse code table: bit string to Symbol (44_code_tables.md R225). -/
abbrev RevTable := List (Bits × Symbol)

/-- The engine's internal working state, one field per item of 10_state.md R44. -/
structure Work where
  freq  : Freq
  syms  : List Symbol
  pq    : Queue
  nodes : Arena
  codes : Codes
  rev   : RevTable
  bits  : Bits
  acc   : Bits
  deriving DecidableEq, Repr, Inhabited

/-- The working state that acceptance sets up (10_state.md R45). -/
def Work.empty : Work :=
  { freq := [], syms := [], pq := [], nodes := [], codes := [], rev := [], bits := [], acc := [] }

end Sys2Proof.Machine
end

