-- ==== Sys2Proof/Config.lean ====
section
/-! DEFINITION. What an implementation fixes (the capacity parameters, 00_scope.md R9) and the free values the spec
leaves open ("any value", 00_scope.md R17). -/

namespace Sys2Proof

/-- The four capacity parameters (00_scope.md R9). The model takes them as a constant field of State
(log entry 1, DESIGN CHOICE), so that a statement over every state holds for every implementation. -/
structure Params where
  /-- P_IN_BYTES: bytes of IN_MEM. -/
  inBytes : Nat
  /-- P_OUT_BYTES: bytes of OUT_MEM. -/
  outBytes : Nat
  /-- P_MAX_SYMBOLS: entries of the frequency table, code table and reverse table. -/
  maxSymbols : Nat
  /-- P_MAX_CODE_LEN: the longest code, in bits. -/
  maxCodeLen : Nat
  deriving DecidableEq, Repr

/-- The legal ranges of 00_scope.md R9 (a premise, not a type: log entry 18, DESIGN CHOICE). -/
abbrev Params.Legal (p : Params) : Prop :=
  (1 ≤ p.inBytes ∧ p.inBytes ≤ 2 ^ 30) ∧ (1 ≤ p.outBytes ∧ p.outBytes ≤ 2 ^ 30) ∧
  (1 ≤ p.maxSymbols ∧ p.maxSymbols ≤ 1112064) ∧ (1 ≤ p.maxCodeLen ∧ p.maxCodeLen ≤ 2 ^ 16)

/-- The reference configuration of 00_scope.md R9 ("an example and is not normative"). -/
def Params.reference : Params :=
  { inBytes := 4096, outBytes := 8192, maxSymbols := 256, maxCodeLen := 255 }

/-- FREE VALUE (log entry 4, DESIGN CHOICE): what the byte of IN_MEM at an offset holds from a reset until the host writes it
(70_reset_and_hazards.md R351). The first argument is the number of the draw. -/
opaque Config.freeInByte : Nat → Nat → Byte

/-- FREE VALUE (log entry 5, DEDUCED): an unspecified byte of OUT_MEM at an offset (10_state.md R39, R47). The first argument
is the number of the draw. -/
opaque Config.freeOutByte : Nat → Nat → Byte

/-- FREE VALUE (log entry 8, DESIGN CHOICE): the internal working state after a completion (10_state.md R45). The argument is the
number of the draw. -/
opaque Config.freeWork : Nat → Machine.Work

end Sys2Proof
end

