-- ==== Sys2Proof/Machine/Errors.lean ====
section
/-! DEFINITION. The errors the block reports, their codes, and how a stage function ends
(60_exceptions.md R310, 00_scope.md R16, 42_priority_queue.md R185). -/

namespace Sys2Proof.Machine

/-- The (CLASS, DETAIL) pairs of 60_exceptions.md R310, in its order, each under its detail name. -/
inductive Err where
  /-- EMPTY_INPUT/ZERO_LENGTH: COMPRESS with IN_LEN = 0. -/
  | zeroLength
  /-- MALFORMED_CONTAINER/SHORT_HEADER: IN_LEN < 4. -/
  | shortHeader
  /-- MALFORMED_CONTAINER/TABLE_LEN: N > IN_LEN - 4. -/
  | tableLen
  /-- MALFORMED_CONTAINER/TABLE_SYNTAX: the table region is not canonical table text. -/
  | tableSyntax
  /-- MALFORMED_CONTAINER/EMPTY_TABLE: the table has no entries. -/
  | emptyTable
  /-- MALFORMED_CONTAINER/DUP_KEY: two entries with one symbol. -/
  | dupKey
  /-- MALFORMED_CONTAINER/NO_PADDING: the payload region is empty. -/
  | noPadding
  /-- MALFORMED_CONTAINER/PAD_RANGE: pad byte > 7. -/
  | padRange
  /-- MALFORMED_CONTAINER/PAD_EXCEEDS: pad > packed bit count. -/
  | padExceeds
  /-- MALFORMED_CONTAINER/BAD_CODE: bits match no code and no prefix of one. -/
  | badCode
  /-- MALFORMED_CONTAINER/TRAILING_BITS: the bit stream ends inside a code. -/
  | trailingBits
  /-- CORRUPT_TABLE/NOT_INJECTIVE: two entries with one code. -/
  | notInjective
  /-- CORRUPT_TABLE/NOT_PREFIX_FREE: a code is a proper prefix of another. -/
  | notPrefixFree
  /-- CAPACITY/IN_LEN: IN_LEN > P_IN_BYTES. -/
  | capInLen
  /-- CAPACITY/SYMBOLS: distinct symbols or table entries > P_MAX_SYMBOLS. -/
  | capSymbols
  /-- CAPACITY/CODE_LEN: a code longer than P_MAX_CODE_LEN. -/
  | capCodeLen
  /-- CAPACITY/OUTPUT: output longer than P_OUT_BYTES. -/
  | capOutput
  /-- ENCODING/ILL_FORMED_UTF8: COMPRESS input is not well-formed UTF-8. -/
  | illFormedUtf8
  /-- ILLEGAL_COMMAND/RESERVED_OP: OP in 0x3..0xF. -/
  | reservedOp
  /-- ILLEGAL_COMMAND/RESERVED_BITS: CMD bits [31:4] != 0. -/
  | reservedBits
  deriving DecidableEq, Repr

/-- CLASS (60_exceptions.md R310). -/
def Err.cls : Err → Nat
  | .zeroLength => 1
  | .shortHeader | .tableLen | .tableSyntax | .emptyTable | .dupKey => 2
  | .noPadding | .padRange | .padExceeds | .badCode | .trailingBits => 2
  | .notInjective | .notPrefixFree => 3
  | .capInLen | .capSymbols | .capCodeLen | .capOutput => 4
  | .illFormedUtf8 => 5
  | .reservedOp | .reservedBits => 6

/-- DETAIL (60_exceptions.md R310). -/
def Err.detail : Err → Nat
  | .zeroLength => 1
  | .shortHeader => 1
  | .tableLen => 2
  | .tableSyntax => 3
  | .emptyTable => 4
  | .dupKey => 5
  | .noPadding => 6
  | .padRange => 7
  | .padExceeds => 8
  | .badCode => 9
  | .trailingBits => 10
  | .notInjective => 1
  | .notPrefixFree => 2
  | .capInLen => 1
  | .capSymbols => 2
  | .capCodeLen => 3
  | .capOutput => 4
  | .illFormedUtf8 => 1
  | .reservedOp => 1
  | .reservedBits => 2

/-- The ERR register's value: zext_32(DETAIL*256 + CLASS) (10_state.md R30, 60_exceptions.md R310). -/
def Err.word (e : Err) : Word := BitVec.ofNat 32 (e.detail * 256 + e.cls)

/-- The places where a total function of the engine has no value to return. Every one is unreachable (log entry 15,
DESIGN CHOICE). -/
inductive Stuck where
  /-- Pop on an empty priority queue (42_priority_queue.md R185, 93_implementation_defined.md section 5). -/
  | popOnEmptyQueue
  /-- Walk reached an index outside the node arena, or did not end within the arena's size
  (43_tree_builder.md R200 and R208 exclude it). -/
  | danglingNode
  /-- ConcatCodes met a symbol with no code (44_code_tables.md R223 item 1 excludes it). -/
  | missingCode
  deriving DecidableEq, Repr

/-- How a stage function ends without a value. -/
inductive Halt where
  /-- `raise E(detail)`: the command ends with that error (00_scope.md R16, 40_commands.md R146). -/
  | raise (e : Err)
  /-- A stuck state: never a value (42_priority_queue.md R185). -/
  | stuck (why : Stuck)
  deriving DecidableEq, Repr

/-- "A pseudocode function returns one value or raises. It has no other effect on state." (00_scope.md R16) -/
abbrev Result (α : Type) := Except Halt α

/-- `raise E(detail)` (00_scope.md R16). -/
def raise {α : Type} (e : Err) : Result α := .error (.raise e)

/-- A stuck state (42_priority_queue.md R185). -/
def stuckAt {α : Type} (w : Stuck) : Result α := .error (.stuck w)

/-- The value, or a stuck state where there is none. -/
def orStuck {α : Type} (w : Stuck) : Option α → Result α
  | some a => .ok a
  | none => stuckAt w

/-- The value, or an error where there is none. -/
def orRaise {α : Type} (e : Err) : Option α → Result α
  | some a => .ok a
  | none => raise e

/-- Raise the error when the condition holds; otherwise return with no effect. -/
def raiseIf (c : Prop) [Decidable c] (e : Err) : Result Unit := if c then raise e else .ok ()

end Sys2Proof.Machine
end

