-- ==== Sys2Proof/Machine/State.lean ====
section
/-! DEFINITION. The state of the block and of its host as plain data, why a step can stop, and the state after reset
(10_state.md R20 to R48, 70_reset_and_hazards.md R350). -/

namespace Sys2Proof.Machine

/-- ENG_STATE (10_state.md R41). -/
inductive EngState where
  | idle
  | busy
  deriving DecidableEq, Repr

/-- CUR_OP (10_state.md R41). -/
inductive Op where
  | compress
  | decompress
  deriving DecidableEq, Repr

/-- A byte memory: the bytes it is known to hold, by offset, offsets strictly rising. An offset that is not listed
holds an unspecified byte (log entry 4, DESIGN CHOICE; log entry 5, DEDUCED). -/
abbrev Memory := List Host.Cell

/-- One step of the host (30_encoding.md R118, R119). -/
inductive HostOp where
  /-- MemRead(a, n) (20_memory.md R76). -/
  | read (a : Word) (n : Nat)
  /-- MemWrite(a, n, v) (20_memory.md R77). -/
  | write (a : Word) (n : Nat) (v : Word)
  /-- WAIT: "repeat R32 STATUS until bit 1 (DONE) of the value read is 1". While BUSY, `polls` more reads of STATUS
  come before the engine's completion (log entry 13, DESIGN CHOICE). -/
  | wait (polls : Nat)
  /-- COPYOUT, its first access: R32 OUT_LEN giving n. -/
  | copyOut
  /-- COPYOUT from byte i on, when OUT_LEN gave n. -/
  | copyFrom (i n : Nat)
  deriving DecidableEq, Repr

/-- What happens next at the block's boundary (20_memory.md R81, 70_reset_and_hazards.md R350). -/
inductive Input where
  /-- The host takes its next step. -/
  | host (op : HostOp)
  /-- The engine takes its step, if it is enabled. -/
  | engine
  /-- The reset input is driven to a level. -/
  | rst (level : Bool)
  deriving DecidableEq, Repr

/-- What the host's last access got back. -/
inductive Response where
  /-- No response: no access yet, or the access fell while rst was asserted (70_reset_and_hazards.md R350). -/
  | silent
  /-- The write was taken by the bus. -/
  | written
  /-- The read returned this value (20_memory.md R76). -/
  | value (v : Word)
  deriving DecidableEq, Repr

/-- The state of the machine. INVENTORY.md lists every field with its rule and its reset value. -/
structure State where
  /-- CAP_IN, CAP_OUT, CAP_SYM, CAP_CODELEN (10_state.md R33 to R36): constants of the implementation. -/
  params : Params
  /-- CTRL.IE (10_state.md R23). -/
  ie : Bool
  /-- STATUS.DONE (10_state.md R26). -/
  statusDone : Bool
  /-- STATUS.ERR (10_state.md R27). -/
  statusErr : Bool
  /-- STATUS.OVR (10_state.md R28). -/
  statusOvr : Bool
  /-- STATUS.WLOCK (10_state.md R29). -/
  statusWlock : Bool
  /-- ERR (10_state.md R30). -/
  errReg : Word
  /-- IN_LEN (10_state.md R31). -/
  inLen : Word
  /-- OUT_LEN (10_state.md R32). -/
  outLen : Word
  /-- ENG_STATE (10_state.md R41); STATUS.BUSY reads 1 exactly when it is busy (R25). -/
  engine : EngState
  /-- CUR_OP (10_state.md R41). -/
  curOp : Op
  /-- IN_MEM (10_state.md R38). -/
  inMem : Memory
  /-- OUT_MEM (10_state.md R39). -/
  outMem : Memory
  /-- The internal working state (10_state.md R44). -/
  work : Work
  /-- The level of the reset input (70_reset_and_hazards.md R350). -/
  rst : Bool
  /-- The model's own: the interleaving of host steps, engine turns and reset levels still to come (20_memory.md R81,
  log entry 2, DESIGN CHOICE). -/
  inputs : List Input
  /-- The model's own: what the host's last access got back (log entry 12, DESIGN CHOICE). -/
  response : Response
  /-- The model's own: the draw IN_MEM's unlisted bytes are read from (log entry 6). -/
  inDraw : Nat
  /-- The model's own: the draw OUT_MEM's unlisted bytes are read from (log entry 6). -/
  outDraw : Nat
  /-- The model's own: the next draw number not yet used (log entry 6, DESIGN CHOICE). -/
  draws : Nat
  deriving DecidableEq, Repr

/-- Why the machine stops. -/
inductive Fault where
  /-- Raised by a host access that touches an unmapped byte or breaks its region's width and alignment rule
  (20_memory.md R72: "A model treats it as a fault of the host's step"). Safe: the model stops where the hardware
  answers with an error response and goes on (log entry 11, DEDUCED). -/
  | busError (a : Word) (n : Nat)
  /-- Raised by the completion step in a state that 42_priority_queue.md R185 and 93_implementation_defined.md
  section 5 call stuck. Unreachable. Safe: no value is returned. -/
  | stuck (why : Stuck)
  deriving DecidableEq, Repr

/-- Why an instruction has no meaning. -/
inductive Refusal where
  /-- Raised by `exec` for an instruction that is not modelled yet. Safe. No arm of `exec` answers it. -/
  | notModelled (mnemonic : String)
  deriving DecidableEq, Repr

/-- The machine right after reset (10_state.md R48, 70_reset_and_hazards.md R350, R351): every CSR at its reset value
(R21), ENG_STATE = IDLE, both memories unspecified, nothing pending. The capacities are the reference configuration's
(log entry 1, DESIGN CHOICE), CUR_OP and the working state are named in log entries 7 and 8 (DESIGN CHOICE). -/
def State.reset : State :=
  { params := Params.reference
    ie := false
    statusDone := false
    statusErr := false
    statusOvr := false
    statusWlock := false
    errReg := 0#32
    inLen := 0#32
    outLen := 0#32
    engine := .idle
    curOp := .compress
    inMem := []
    outMem := []
    work := Work.empty
    rst := false
    inputs := []
    response := .silent
    inDraw := 0
    outDraw := 0
    draws := 1 }

end Sys2Proof.Machine
end

