-- ==== Sys2Proof/Machine/Ops.lean ====
section
/-! DEFINITION. The operations that every instruction and every host step share: the byte memories, the reads of IN_MEM
and OUT_MEM, acceptance, recording an error (the block's counterpart of taking an exception) and the commit of a
result, reset. -/

namespace Sys2Proof.Machine

/-! ## The byte memories -/

/-- The byte listed at an offset; `none` where the byte is unspecified. -/
def Memory.read : Memory → Nat → Option Byte
  | [], _ => none
  | (x, c) :: m, a => if a = x then some c else Memory.read m a

/-- Store a byte at an offset, keeping the offsets strictly rising. -/
def Memory.write : Memory → Nat → Byte → Memory
  | [], a, b => [(a, b)]
  | (x, c) :: m, a, b =>
    if a < x then (a, b) :: (x, c) :: m
    else if a = x then (a, b) :: m
    else (x, c) :: Memory.write m a b

/-- Store bytes at consecutive offsets from `a` on. -/
def Memory.writeBytes : Memory → Nat → List Byte → Memory
  | m, _, [] => m
  | m, a, b :: bs => Memory.writeBytes (Memory.write m a b) (a + 1) bs

/-- The memory that holds the given bytes at consecutive offsets from `a` on, and nothing else. -/
def Memory.ofBytes : Nat → List Byte → Memory
  | _, [] => []
  | a, b :: bs => (a, b) :: Memory.ofBytes (a + 1) bs

/-- The canonical form: offsets strictly rising. An unlisted offset holds an unspecified byte, so no listed byte equals
what an unlisted offset reads as, and equal memories are equal lists. -/
def Memory.wf : Memory → Bool
  | [] => true
  | [_] => true
  | (a, _) :: (b, c) :: m => decide (a < b) && Memory.wf ((b, c) :: m)

/-- Every listed offset is below `n`. -/
def Memory.below (n : Nat) (m : Memory) : Bool := m.all fun c => decide (c.1 < n)

/-! ## Reads of the two memories -/

/-- The byte IN[i] (10_state.md R38). A byte the host has not written since reset holds an unspecified value that stays
the same until it is written (70_reset_and_hazards.md R351). -/
def State.inByte (s : State) (i : Nat) : Byte :=
  (Memory.read s.inMem i).getD (Config.freeInByte s.inDraw i)

/-- The byte OUT[i] as stored (10_state.md R39, R47): listed after a success for i < OUT_LEN, and otherwise an
unspecified value that stays the same until the next completion. -/
def State.outByte (s : State) (i : Nat) : Byte :=
  (Memory.read s.outMem i).getD (Config.freeOutByte s.outDraw i)

/-- What a host read of OUT[i] returns (10_state.md R39): while BUSY any value, drawn afresh for each read. -/
def State.outReadByte (s : State) (i : Nat) : Byte :=
  match s.engine with
  | .busy => Config.freeOutByte s.draws i
  | .idle => s.outByte i

/-- Store bytes into IN_MEM from an offset on (20_memory.md R77). -/
def State.storeIn (off : Nat) (bs : List Byte) (s : State) : State :=
  { s with inMem := Memory.writeBytes s.inMem off bs }

/-! ## Acceptance -/

/-- `Accept(op)` (40_commands.md R145): the host-step effect of a COMPRESS or DECOMPRESS word written while IDLE. -/
def State.accept (op : Op) (s : State) : State :=
  { s with
    curOp := op
    engine := .busy
    statusDone := false
    statusErr := false
    errReg := 0#32
    outLen := 0#32
    work := Work.empty }

/-! ## Recording an error, and the result of a command -/

/-- What every error records (60_exceptions.md R312, R317; 10_state.md R47; 40_commands.md R142): ERR, STATUS.ERR and
STATUS.DONE are set, OUT_LEN is 0, and every byte of OUT_MEM takes any value. The block has no traps, so nothing else is
saved and control stays with the host. -/
def State.recordError (e : Err) (s : State) : State :=
  { s with
    outLen := 0#32
    errReg := e.word
    statusErr := true
    statusDone := true
    outMem := []
    outDraw := s.draws
    draws := s.draws + 1 }

/-- What a success records (10_state.md R47): the output bytes from OUT[0] on, the rest of OUT_MEM any value. -/
def State.recordOutput (out : List Byte) (s : State) : State :=
  { s with
    outLen := BitVec.ofNat 32 out.length
    errReg := 0#32
    statusErr := false
    statusDone := true
    outMem := Memory.ofBytes 0 out
    outDraw := s.draws
    draws := s.draws + 1 }

/-- The end of a command (10_state.md R47, R45): the engine is IDLE again, and no value of the working state survives:
its contents are unspecified (log entry 8, DESIGN CHOICE). -/
def State.retire (s : State) : State :=
  { s with engine := .idle, work := Config.freeWork s.draws, draws := s.draws + 1 }

/-! ## Reset -/

/-- The state reset leaves (70_reset_and_hazards.md R350, R351): every CSR at its reset value, the engine IDLE with any
command abandoned, both memories drawn afresh. The capacities are constants and stay; the inputs still to come are the
outside world's and stay. -/
def State.resetBlock (s : State) : State :=
  { State.reset with
    params := s.params
    inputs := s.inputs
    rst := s.rst
    inDraw := s.draws
    outDraw := s.draws
    draws := s.draws + 1 }

/-- Drive the reset input (70_reset_and_hazards.md R350; log entry 10, DEDUCED): asserting it resets the block, and so does
deasserting it; driving an already deasserted input low does nothing. -/
def State.driveRst (level : Bool) (s : State) : State :=
  if level || s.rst then { s.resetBlock with rst := level } else s

/-! ## The host's side -/

/-- Put a host step back at the head of what is still to come. -/
def State.push (op : HostOp) (s : State) : State :=
  { s with inputs := .host op :: s.inputs }

/-- Record what an access got back. -/
def State.respond (r : Response) (s : State) : State :=
  { s with response := r }

end Sys2Proof.Machine
end

