-- ==== Sys2Proof/Machine/Flags.lean ====
section
/-! DEFINITION. The status flags, the control bit and the interrupt output (10_state.md R23, R25 to R29, R42, R43). -/

namespace Sys2Proof.Machine

/-- A register value with one flag at a bit position and 0 elsewhere. -/
def flagBit (pos : Nat) (b : Bool) : Word := if b then BitVec.twoPow 32 pos else 0#32

/-- STATUS.BUSY (10_state.md R25): 1 exactly when ENG_STATE = BUSY. -/
def State.busy (s : State) : Bool :=
  match s.engine with
  | .busy => true
  | .idle => false

/-- The value STATUS reads (10_state.md R25 to R29): BUSY, DONE, ERR, OVR, WLOCK in bits 0 to 4, bits [31:5] zero
(log entry 20, DEDUCED). -/
def State.statusWord (s : State) : Word :=
  flagBit 0 s.busy ||| flagBit 1 s.statusDone ||| flagBit 2 s.statusErr ||| flagBit 3 s.statusOvr |||
    flagBit 4 s.statusWlock

/-- A write to STATUS (10_state.md R25 to R29): writing 1 to bit 1, 3 or 4 clears DONE, OVR or WLOCK; every other bit of
the write is ignored. -/
def State.writeStatus (v : Word) (s : State) : State :=
  { s with
    statusDone := s.statusDone && !v.getLsbD 1
    statusOvr := s.statusOvr && !v.getLsbD 3
    statusWlock := s.statusWlock && !v.getLsbD 4 }

/-- STATUS.OVR is set (10_state.md R28). -/
def State.setOvr (s : State) : State := { s with statusOvr := true }

/-- STATUS.WLOCK is set (10_state.md R29). -/
def State.setWlock (s : State) : State := { s with statusWlock := true }

/-- The value CTRL reads (10_state.md R23): IE in bit 0, bits [31:1] zero. -/
def State.ctrlWord (s : State) : Word := flagBit 0 s.ie

/-- A write to CTRL (10_state.md R23): bit 0 is stored in any engine state, the rest is ignored. -/
def State.writeCtrl (v : Word) (s : State) : State := { s with ie := v.getLsbD 0 }

/-- A write to IN_LEN (10_state.md R31): stored without clamping while IDLE; ignored, with WLOCK set, while BUSY. -/
def State.writeInLen (v : Word) (s : State) : State :=
  match s.engine with
  | .idle => { s with inLen := v }
  | .busy => s.setWlock

/-- The interrupt output (10_state.md R43, 60_exceptions.md R321): a level, with no state of its own
(its delivery: log entry 19, DESIGN CHOICE). -/
def State.irq (s : State) : Bool := s.statusDone && s.ie

end Sys2Proof.Machine
end

