-- ==== Sys2Proof/Machine/Commands.lean ====
section
/-! DEFINITION. The meaning of each command word: the effect of writing it to CMD (40_commands.md R140 to R145). -/

namespace Sys2Proof.Machine

/-- The dispatch every command word shares (40_commands.md R140): while BUSY the word is dropped and sets OVR. -/
def whenIdle (act : State → State) (s : State) : Host.Outcome State Fault Refusal :=
  match s.engine with
  | .busy => .next s.setOvr
  | .idle => .next (act s)

/-- `IllegalCommand(detail)` (40_commands.md R142): ENG_STATE stays IDLE. -/
def illegalCommand (e : Err) (s : State) : Host.Outcome State Fault Refusal := whenIdle (State.recordError e) s

/-- NOP (40_commands.md R141): the write completes with no change to any state. -/
def execNop (s : State) : Host.Outcome State Fault Refusal := whenIdle (fun s => s) s

/-- COMPRESS (40_commands.md R143, R145): the word is accepted; the completion step runs Compress. -/
def execCompress (s : State) : Host.Outcome State Fault Refusal := whenIdle (State.accept .compress) s

/-- DECOMPRESS (40_commands.md R144, R145): the word is accepted; the completion step runs Decompress. -/
def execDecompress (s : State) : Host.Outcome State Fault Refusal := whenIdle (State.accept .decompress) s

/-- OP = 0x3 (40_commands.md R142): RESERVED_OP, whatever RSVD holds. -/
def execIllegalOp3 (_rsvd : BitVec 28) (s : State) : Host.Outcome State Fault Refusal := illegalCommand .reservedOp s

/-- OP = 0x4 to 0x7 (40_commands.md R142): RESERVED_OP, whatever the other bits hold. -/
def execIllegalOp47 (_rsvd : BitVec 28) (_lo : BitVec 2) (s : State) : Host.Outcome State Fault Refusal :=
  illegalCommand .reservedOp s

/-- OP = 0x8 to 0xF (40_commands.md R142): RESERVED_OP, whatever the other bits hold. -/
def execIllegalOp8F (_rsvd : BitVec 28) (_lo : BitVec 3) (s : State) : Host.Outcome State Fault Refusal :=
  illegalCommand .reservedOp s

/-- OP = 0x0 to 0x2 with RSVD != 0 (40_commands.md R142): RESERVED_BITS (ill-formed terms: log entry 21,
DESIGN CHOICE). -/
def execIllegalBits (_rsvd : BitVec 28) (_op : BitVec 2) (s : State) : Host.Outcome State Fault Refusal :=
  illegalCommand .reservedBits s

end Sys2Proof.Machine
end

