-- ==== Sys2Proof/Machine/Dispatch.lean ====
section
/-! DEFINITION. The effect of each command word (40_commands.md R140). -/

namespace Sys2Proof.Machine

def exec (i : Instr) (s : State) : Host.Outcome State Fault Refusal :=
  match i with
  | .nop => Sys2Proof.Machine.execNop s
  | .compress => Sys2Proof.Machine.execCompress s
  | .decompress => Sys2Proof.Machine.execDecompress s
  | .illegalOp3 rsvd => Sys2Proof.Machine.execIllegalOp3 rsvd s
  | .illegalOp47 rsvd lo => Sys2Proof.Machine.execIllegalOp47 rsvd lo s
  | .illegalOp8F rsvd lo => Sys2Proof.Machine.execIllegalOp8F rsvd lo s
  | .illegalBits rsvd op => Sys2Proof.Machine.execIllegalBits rsvd op s

end Sys2Proof.Machine
end

