-- ==== Sys2Proof/Machine/Operands.lean ====
section
/-! DEFINITION. The operands of a command: IN_LEN and the input bytes ("There are no operand fields. Every operand of a
command is in a CSR (IN_LEN) or in IN_MEM.", 30_encoding.md R100). -/

namespace Sys2Proof.Machine

/-- The value of IN_LEN as a number (10_state.md R31). -/
def State.inputLength (s : State) : Nat := s.inLen.toNat

/-- IN[0 .. L), the bytes the engine reads (10_state.md R38, 20_memory.md R80). -/
def State.inputBytes (s : State) : List Byte := (List.range s.inputLength).map s.inByte

/-- OUT[0 .. n) as stored. -/
def State.outputBytes (s : State) (n : Nat) : List Byte := (List.range n).map s.outByte

/-- The number that bytes make, the byte at the lowest address least significant (20_memory.md R76). -/
def valueOfLanes : List Byte → Nat
  | [] => 0
  | b :: bs => b.toNat + 256 * valueOfLanes bs

/-- Byte k of a bus value is bits [8k+7:8k] (20_memory.md R77; log entry 16, DEDUCED). -/
def laneOfValue (v : Word) (k : Nat) : Byte := v.extractLsb' (8 * k) 8

/-- BE32 (00_scope.md R12): the first byte is the most significant. -/
def be32 (b0 b1 b2 b3 : Byte) : Nat :=
  b0.toNat * 2 ^ 24 + b1.toNat * 2 ^ 16 + b2.toNat * 2 ^ 8 + b3.toNat

end Sys2Proof.Machine
end

