-- ==== Sys2Proof/Machine/Bus.lean ====
section
/-! DEFINITION. The slave port: the address map, the access rules, the CSRs, MemRead and MemWrite
(20_memory.md R70 to R80, 10_state.md R21 to R39, R49). -/

namespace Sys2Proof.Machine

/-! ## The address map (20_memory.md R71, 10_state.md R21) -/

/-- The end of the CSR page. -/
def csrEnd : Nat := 0x1000
/-- IN_BASE. -/
def inBase : Nat := 0x40000000
/-- OUT_BASE. -/
def outBase : Nat := 0x80000000

/-- The CSRs of 10_state.md R21; `reserved` is any other word of the page (R37). -/
inductive Csr where
  | id | ctrl | cmd | status | err | inLen | outLen | capIn | capOut | capSym | capCodeLen | reserved
  deriving DecidableEq, Repr

/-- The CSR at a byte offset of the page (10_state.md R21). -/
def csrAt (off : Nat) : Csr :=
  if off = 0x000 then .id
  else if off = 0x004 then .ctrl
  else if off = 0x008 then .cmd
  else if off = 0x00C then .status
  else if off = 0x010 then .err
  else if off = 0x014 then .inLen
  else if off = 0x018 then .outLen
  else if off = 0x01C then .capIn
  else if off = 0x020 then .capOut
  else if off = 0x024 then .capSym
  else if off = 0x028 then .capCodeLen
  else .reserved

/-- The address of CMD (10_state.md R24). -/
def cmdAddr : Word := 0x008#32
/-- The address of STATUS (10_state.md R25). -/
def statusAddr : Word := 0x00C#32
/-- The address of IN_LEN (10_state.md R31). -/
def inLenAddr : Word := 0x014#32
/-- The address of OUT_LEN (10_state.md R32). -/
def outLenAddr : Word := 0x018#32

/-- What a permitted access touches. -/
inductive Region where
  | csr (r : Csr)
  | inWin (off : Nat)
  | outWin (off : Nat)
  deriving DecidableEq, Repr

/-- The access widths of the two windows (20_memory.md R74, R75). -/
def windowWidth (n : Nat) : Bool := n == 1 || n == 2 || n == 4

/-- The region that an access of n bytes at an address touches, or `none` for BusError (20_memory.md R71 to R75;
widths and edges: log entry 14, DEDUCED). -/
def regionOf (p : Params) (a : Word) (n : Nat) : Option Region :=
  if a.toNat + n ≤ csrEnd then
    if n = 4 ∧ a.toNat % 4 = 0 then some (.csr (csrAt a.toNat)) else none
  else if inBase ≤ a.toNat ∧ a.toNat + n ≤ inBase + p.inBytes then
    if windowWidth n ∧ a.toNat % n = 0 then some (.inWin (a.toNat - inBase)) else none
  else if outBase ≤ a.toNat ∧ a.toNat + n ≤ outBase + p.outBytes then
    if windowWidth n ∧ a.toNat % n = 0 then some (.outWin (a.toNat - outBase)) else none
  else none

/-! ## The CSRs -/

/-- The constant of ID (10_state.md R22). -/
def idValue : Word := 0x48554631#32

/-- The value a CSR reads (10_state.md R22 to R37, R49): no read has a side effect. -/
def State.csrRead (r : Csr) (s : State) : Word :=
  match r with
  | .id => idValue
  | .ctrl => s.ctrlWord
  | .cmd => 0#32
  | .status => s.statusWord
  | .err => s.errReg
  | .inLen => s.inLen
  | .outLen => s.outLen
  | .capIn => BitVec.ofNat 32 s.params.inBytes
  | .capOut => BitVec.ofNat 32 s.params.outBytes
  | .capSym => BitVec.ofNat 32 s.params.maxSymbols
  | .capCodeLen => BitVec.ofNat 32 s.params.maxCodeLen
  | .reserved => 0#32

/-- A write to a CSR (10_state.md R22 to R37): a word written to CMD is decoded and has its command's effect
(40_commands.md R140); read-only and reserved registers ignore the write. -/
def csrWrite (r : Csr) (v : Word) (s : State) : Host.Outcome State Fault Refusal :=
  match r with
  | .ctrl => .next (s.writeCtrl v)
  | .cmd => exec (decode v) s
  | .status => .next (s.writeStatus v)
  | .inLen => .next (s.writeInLen v)
  | .id => .next s
  | .err => .next s
  | .outLen => .next s
  | .capIn => .next s
  | .capOut => .next s
  | .capSym => .next s
  | .capCodeLen => .next s
  | .reserved => .next s

/-! ## MemRead and MemWrite -/

/-- The bytes of IN_MEM from an offset on. -/
def State.inSlice (s : State) (off n : Nat) : List Byte := (List.range n).map fun k => s.inByte (off + k)

/-- The bytes a host read of OUT_MEM returns, from an offset on (10_state.md R39). -/
def State.outSlice (s : State) (off n : Nat) : List Byte := (List.range n).map fun k => s.outReadByte (off + k)

/-- A read of OUT_MEM while BUSY uses up a draw, so that the next read draws afresh (10_state.md R39). -/
def State.outReadDone (s : State) : State :=
  match s.engine with
  | .busy => { s with draws := s.draws + 1 }
  | .idle => s

/-- `MemRead(a, n)` (20_memory.md R76): the value read, or `none` for BusError. The state changes only in the model's
own draw counter. -/
def memRead (a : Word) (n : Nat) (s : State) : Option (Word × State) :=
  match regionOf s.params a n with
  | none => none
  | some (.csr r) => some (s.csrRead r, s)
  | some (.inWin off) => some (BitVec.ofNat 32 (valueOfLanes (s.inSlice off n)), s)
  | some (.outWin off) => some (BitVec.ofNat 32 (valueOfLanes (s.outSlice off n)), s.outReadDone)

/-- A write of n bytes in the IN window (20_memory.md R74, R77): stored while IDLE, ignored as a whole with WLOCK set
while BUSY. -/
def State.writeInWindow (off n : Nat) (v : Word) (s : State) : State :=
  match s.engine with
  | .idle => s.storeIn off ((List.range n).map (laneOfValue v))
  | .busy => s.setWlock

/-- `MemWrite(a, n, v)` (20_memory.md R77): BusError changes no state; a write in the OUT window is ignored
(R75). -/
def memWrite (a : Word) (n : Nat) (v : Word) (s : State) : Host.Outcome State Fault Refusal :=
  match regionOf s.params a n with
  | none => .fault (.busError a n)
  | some (.csr r) => csrWrite r v s
  | some (.inWin off) => .next (s.writeInWindow off n v)
  | some (.outWin _) => .next s

end Sys2Proof.Machine
end

