-- ==== Sys2Proof/Machine/PriorityQueue.lean ====
section
/-! DEFINITION. The priority queue (42_priority_queue.md R180 to R187). -/

namespace Sys2Proof.Machine

/-- `Enqueue(p, v)` (42_priority_queue.md R181): after every entry of priority <= p. On a queue in ascending order, the
position is where the first greater priority stands. -/
def enqueue (p v : Nat) (q : Queue) : Queue :=
  let i := (q.filter fun e => decide (e.1 ≤ p)).length
  q.take i ++ (p, v) :: q.drop i

/-- `Pop()` (42_priority_queue.md R182): the lowest-priority entry and the rest; `none` on an empty queue, which its
callers treat as stuck (R185). -/
def pop : Queue → Option ((Nat × Nat) × Queue)
  | [] => none
  | e :: q => some (e, q)

/-- `Peek()` (42_priority_queue.md R183). -/
def peek (q : Queue) : Option (Nat × Nat) := q.head?

/-- `Size()` (42_priority_queue.md R184). -/
def size (q : Queue) : Nat := q.length

/-- `IsEmpty()` (42_priority_queue.md R184). -/
def isEmpty (q : Queue) : Bool := decide (size q = 0)

end Sys2Proof.Machine
end

