-- ==== Sys2Proof/Machine/Tree.lean ====
section
/-! DEFINITION. The node arena and the tree builder (43_tree_builder.md R200 to R209). -/

namespace Sys2Proof.Machine

/-- `IsLeaf(n)` (43_tree_builder.md R201). -/
def isLeaf (nodes : Arena) (n : Nat) : Bool :=
  match nodes[n]? with
  | some (.leaf _ _) => true
  | some (.internal _ _ _) => false
  | none => false

/-- A node's frequency, which is also its priority (43_tree_builder.md R200). -/
def Node.freq : Node → Nat
  | .leaf _ f => f
  | .internal f _ _ => f

/-- The seeding loop of BuildTree (43_tree_builder.md R203): one leaf per entry, in FREQ order. -/
def seed : Freq → Arena → Queue → Arena × Queue
  | [], nodes, q => (nodes, q)
  | (s, f) :: rest, nodes, q =>
    seed rest (nodes ++ [.leaf s f]) (enqueue f nodes.length q)

/-- One merge of BuildTree (43_tree_builder.md R203, R204): the first entry popped becomes left, the second right. -/
def merge (nodes : Arena) (q : Queue) : Option (Arena × Queue) := do
  let ((p1, a), q) ← pop q
  let ((p2, b), q) ← pop q
  some (nodes ++ [.internal (p1 + p2) a b], enqueue (p1 + p2) nodes.length q)

/-- The merging loop of BuildTree (43_tree_builder.md R203): while Size() > 1. Each pass makes the queue one shorter
(42_priority_queue.md R186), so the queue's own length bounds the passes. -/
def mergeAll : Nat → Arena → Queue → Option (Arena × Queue)
  | 0, nodes, q => some (nodes, q)
  | n + 1, nodes, q =>
    if size q > 1 then
      match merge nodes q with
      | some (nodes', q') => mergeAll n nodes' q'
      | none => none
    else some (nodes, q)

/-- `BuildTree(FREQ)` (43_tree_builder.md R203): the arena and the index of the root. A Pop on an empty queue is stuck
(42_priority_queue.md R185). -/
def buildTree (freq : Freq) : Result (Arena × Nat) :=
  let (nodes, q) := seed freq [] []
  orStuck .popOnEmptyQueue <|
    match mergeAll (size q) nodes q with
    | none => none
    | some (nodes, q) =>
      match pop q with
      | none => none
      | some ((_, root), _) => some (nodes, root)

end Sys2Proof.Machine
end

