-- ==== Sys2Proof/Machine/CodeTables.lean ====
section
/-! DEFINITION. Code generation and the reverse code table (44_code_tables.md R220 to R227). -/

namespace Sys2Proof.Machine

/-- `Walk(n, path)` (44_code_tables.md R220): depth first, left subtree before right, the codes in the order the walk
reaches the leaves (R222). A path has at most as many edges as the arena has nodes (43_tree_builder.md R207), which is
the bound of the recursion. -/
def walk (nodes : Arena) : Nat → Nat → Bits → Result Codes
  | 0, _, _ => stuckAt .danglingNode
  | fuel + 1, n, path =>
    match nodes[n]? with
    | none => stuckAt .danglingNode
    | some (.leaf s _) => .ok [(s, path)]
    | some (.internal _ l r) => do
      let left ← walk nodes fuel l (path ++ [false])
      let right ← walk nodes fuel r (path ++ [true])
      .ok (left ++ right)

/-- `GenCodes(NODES, root)` (44_code_tables.md R220); a root that is a leaf gets the code "0" (R221). -/
def genCodes (nodes : Arena) (root : Nat) : Result Codes :=
  match nodes[root]? with
  | some (.leaf s _) => .ok [(s, [false])]
  | some (.internal _ _ _) => walk nodes nodes.length root []
  | none => stuckAt .danglingNode

/-- `CheckCodeLen(CODES)` (44_code_tables.md R224). -/
def checkCodeLen (p : Params) (codes : Codes) : Result Unit :=
  raiseIf (∃ e ∈ codes, e.2.length > p.maxCodeLen) .capCodeLen

/-- `prefix(s, t)` with s != t (00_scope.md R14). -/
def properPrefix (s t : Bits) : Bool := s.isPrefixOf t && s != t

/-- Two entries at different positions agree on a key. -/
def repeats {α : Type} [DecidableEq α] : List α → Bool
  | [] => false
  | a :: as => decide (a ∈ as) || repeats as

/-- The inverse of a table: each code with its symbol, in the table's order (44_code_tables.md R225). -/
def invert (E : Codes) : RevTable := E.map fun e => (e.2, e.1)

/-- `BuildReverse(E)` (44_code_tables.md R225): the first check that holds decides the error. -/
def buildReverse (p : Params) (E : Codes) : Result RevTable := do
  raiseIf (E.length = 0) .emptyTable
  raiseIf (E.length > p.maxSymbols) .capSymbols
  raiseIf (∃ e ∈ E, e.2.length > p.maxCodeLen) .capCodeLen
  raiseIf (repeats (E.map (·.1)) = true) .dupKey
  raiseIf (repeats (E.map (·.2)) = true) .notInjective
  raiseIf (∃ a ∈ E, ∃ b ∈ E, properPrefix a.2 b.2 = true) .notPrefixFree
  .ok (invert E)

/-- `REV[c]`, where c is a code (44_code_tables.md R226). -/
def RevTable.symbolOf (rev : RevTable) (c : Bits) : Option Symbol := rev.lookup c

/-- c is a proper prefix of some code in REV (47_symbol_decoder.md R290). -/
def RevTable.hasLonger (rev : RevTable) (c : Bits) : Bool := rev.any fun r => properPrefix c r.1

end Sys2Proof.Machine
end

