-- ==== Sys2Proof/Machine/BitPacker.lean ====
section
/-! DEFINITION. The bit packer and unpacker (45_bit_packer.md R240 to R247), and bits within bytes
(00_scope.md R14, 30_encoding.md R115). -/

namespace Sys2Proof.Machine

/-- `bitsToByte(s)`, most significant bit first (00_scope.md R14). -/
def bitsToByte (s : Bits) : Byte := BitVec.ofNat 8 (s.foldl (fun n b => 2 * n + b.toNat) 0)

/-- `byteToBits(b)`, most significant bit first (00_scope.md R14). -/
def byteToBits (b : Byte) : Bits := [7, 6, 5, 4, 3, 2, 1, 0].map fun i => b.getLsbD i

/-- The bits of a byte sequence, in order (30_encoding.md R115). -/
def bytesToBits (bs : List Byte) : Bits := bs.flatMap byteToBits

/-- The bytes of a bit string whose length is a multiple of 8: each group of eight in order (45_bit_packer.md R243). -/
def bitsToBytes : Bits → List Byte
  | b0 :: b1 :: b2 :: b3 :: b4 :: b5 :: b6 :: b7 :: rest =>
    bitsToByte [b0, b1, b2, b3, b4, b5, b6, b7] :: bitsToBytes rest
  | _ => []

/-- `ConcatCodes(SYMS, CODES)` (45_bit_packer.md R240). -/
def concatCodes (codes : Codes) : List Symbol → Result Bits
  | [] => .ok []
  | s :: syms => do
    let c ← orStuck .missingCode (codes.lookup s)
    let rest ← concatCodes codes syms
    .ok (c ++ rest)

/-- The padding count of a bit string of length L (45_bit_packer.md R241). -/
def padCount (L : Nat) : Nat := (8 - L % 8) % 8

/-- `Pack(BITS)` (45_bit_packer.md R243): the padding count, then the bytes of BITS with zero filler (R242). -/
def pack (bits : Bits) : List Byte :=
  BitVec.ofNat 8 (padCount bits.length) ::
    bitsToBytes (bits ++ List.replicate (padCount bits.length) false)

/-- `Unpack(P)` (45_bit_packer.md R245): the first check that holds decides the error. -/
def unpack : List Byte → Result Bits
  | [] => raise .noPadding
  | pad :: packed => do
    raiseIf (pad.toNat > 7) .padRange
    raiseIf (pad.toNat > 8 * packed.length) .padExceeds
    .ok ((bytesToBits packed).take ((bytesToBits packed).length - pad.toNat))

end Sys2Proof.Machine
end

