-- ==== Sys2Proof/Machine/Utf8.lean ====
section
/-! DEFINITION. UTF-8 (30_encoding.md R108, R109). -/

namespace Sys2Proof.Machine

/-- A Unicode scalar value (30_encoding.md R108). -/
abbrev isScalar (c : Symbol) : Prop := c ≤ 0xD7FF ∨ (0xE000 ≤ c ∧ c ≤ 0x10FFFF)

/-- The table of well-formed UTF-8 sequences (30_encoding.md R108): one row per line, one range per byte. -/
def utf8Rows : List (List (Nat × Nat)) :=
  [ [(0x00, 0x7F)],
    [(0xC2, 0xDF), (0x80, 0xBF)],
    [(0xE0, 0xE0), (0xA0, 0xBF), (0x80, 0xBF)],
    [(0xE1, 0xEC), (0x80, 0xBF), (0x80, 0xBF)],
    [(0xED, 0xED), (0x80, 0x9F), (0x80, 0xBF)],
    [(0xEE, 0xEF), (0x80, 0xBF), (0x80, 0xBF)],
    [(0xF0, 0xF0), (0x90, 0xBF), (0x80, 0xBF), (0x80, 0xBF)],
    [(0xF1, 0xF3), (0x80, 0xBF), (0x80, 0xBF), (0x80, 0xBF)],
    [(0xF4, 0xF4), (0x80, 0x8F), (0x80, 0xBF), (0x80, 0xBF)] ]

/-- The byte sequence begins with bytes in a row's ranges. -/
def beginsWithRow : List (Nat × Nat) → List Byte → Bool
  | [], _ => true
  | _ :: _, [] => false
  | (lo, hi) :: row, b :: bs => decide (lo ≤ b.toNat) && decide (b.toNat ≤ hi) && beginsWithRow row bs

/-- The scalar value a sequence of 1 to 4 bytes encodes (30_encoding.md R109, the bit layout read backwards). -/
def utf8Value : List Byte → Symbol
  | [b1] => b1.toNat
  | [b1, b2] => b1.toNat % 32 * 64 + b2.toNat % 64
  | [b1, b2, b3] => b1.toNat % 16 * 4096 + b2.toNat % 64 * 64 + b3.toNat % 64
  | [b1, b2, b3, b4] => b1.toNat % 8 * 262144 + b2.toNat % 64 * 4096 + b3.toNat % 64 * 64 + b4.toNat % 64
  | _ => 0

/-- `Utf8Decode` at the head of a byte sequence (30_encoding.md R108, R109): the scalar value and the length of the
well-formed sequence it begins with; `none` where it is ill-formed at its first byte. -/
def utf8Head (bs : List Byte) : Option (Symbol × Nat) :=
  match utf8Rows.find? fun row => beginsWithRow row bs with
  | some row => some (utf8Value (bs.take row.length), row.length)
  | none => none

/-- `Utf8Encode(c)` for a scalar value c (30_encoding.md R109). -/
def utf8Encode (c : Symbol) : List Byte :=
  if c ≤ 0x7F then [BitVec.ofNat 8 c]
  else if c ≤ 0x7FF then [BitVec.ofNat 8 (0xC0 + c / 64), BitVec.ofNat 8 (0x80 + c % 64)]
  else if c ≤ 0xFFFF then
    [BitVec.ofNat 8 (0xE0 + c / 4096), BitVec.ofNat 8 (0x80 + c / 64 % 64), BitVec.ofNat 8 (0x80 + c % 64)]
  else
    [BitVec.ofNat 8 (0xF0 + c / 262144), BitVec.ofNat 8 (0x80 + c / 4096 % 64), BitVec.ofNat 8 (0x80 + c / 64 % 64),
      BitVec.ofNat 8 (0x80 + c % 64)]

/-- The UTF-8 encoding of a list of symbols, in order (47_symbol_decoder.md R293). -/
def utf8EncodeAll (syms : List Symbol) : List Byte := syms.flatMap utf8Encode

end Sys2Proof.Machine
end

