-- ==== Sys2Proof/Machine/Container.lean ====
section
/-! DEFINITION. The container codec (46_container.md R260 to R269) and the canonical table text
(30_encoding.md R110 to R114). -/

namespace Sys2Proof.Machine

/-! ## ASCII (30_encoding.md R110) -/

def chOpen : Byte := 0x7B#8
def chClose : Byte := 0x7D#8
def chQuote : Byte := 0x22#8
def chColon : Byte := 0x3A#8
def chComma : Byte := 0x2C#8
def chBackslash : Byte := 0x5C#8
def chZero : Byte := 0x30#8
def chOne : Byte := 0x31#8
def chU : Byte := 0x75#8

/-- The short escapes (30_encoding.md R110 to R112): the byte after the backslash, and the scalar value it stands
for. -/
def shortEscapes : List (Byte × Symbol) :=
  [ (0x22#8, 0x22), (0x5C#8, 0x5C), (0x62#8, 0x08), (0x66#8, 0x0C), (0x6E#8, 0x0A), (0x72#8, 0x0D), (0x74#8, 0x09) ]

/-! ## Writing the table text -/

/-- `hexdigit(d)`, lower case (30_encoding.md R111). -/
def hexDigit (d : Nat) : Byte := if d ≤ 9 then BitVec.ofNat 8 (0x30 + d) else BitVec.ofNat 8 (0x61 + (d - 10))

/-- `EscapeKey(c)` (30_encoding.md R111). -/
def escapeKey (c : Symbol) : List Byte :=
  match shortEscapes.find? fun e => e.2 == c with
  | some e => [chBackslash, e.1]
  | none =>
    if c < 0x20 then [chBackslash, chU, chZero, chZero, hexDigit (c / 16), hexDigit (c % 16)]
    else utf8Encode c

/-- The bits of a code, one byte a bit (30_encoding.md R113). -/
def codeText (code : Bits) : List Byte := code.map fun b => if b then chOne else chZero

/-- One entry of the table text, `"k":"0101"` (46_container.md R260). -/
def entryText (e : Symbol × Bits) : List Byte :=
  [chQuote] ++ escapeKey e.1 ++ [chQuote, chColon, chQuote] ++ codeText e.2 ++ [chQuote]

/-- The entries, with a comma before every one but the first (46_container.md R260). -/
def entriesText : Codes → List Byte
  | [] => []
  | [e] => entryText e
  | e :: es => entryText e ++ [chComma] ++ entriesText es

/-- `SerializeTable(CODES)` (46_container.md R260). -/
def serializeTable (codes : Codes) : List Byte := [chOpen] ++ entriesText codes ++ [chClose]

/-- The 4-byte big-endian length field (46_container.md R262, 30_encoding.md R104). -/
def lengthField (N : Nat) : List Byte :=
  [BitVec.ofNat 8 (N / 2 ^ 24), BitVec.ofNat 8 (N / 2 ^ 16), BitVec.ofNat 8 (N / 2 ^ 8), BitVec.ofNat 8 N]

/-- `Frame(text, payload)` (46_container.md R262). -/
def frame (text payload : List Byte) : List Byte := lengthField text.length ++ text ++ payload

/-! ## Splitting a container -/

/-- `SplitContainer(C)` (46_container.md R264): the table region and the payload region. -/
def splitContainer : List Byte → Result (List Byte × List Byte)
  | b0 :: b1 :: b2 :: b3 :: rest =>
    if be32 b0 b1 b2 b3 > rest.length then raise .tableLen
    else .ok (rest.take (be32 b0 b1 b2 b3), rest.drop (be32 b0 b1 b2 b3))
  | _ => raise .shortHeader

/-! ## Reading the table text

`none` stands for a mismatch, which is TABLE_SYNTAX (46_container.md R265). -/

/-- `expect(b)` (46_container.md R265). -/
def expect (b : Byte) : List Byte → Option (List Byte)
  | [] => none
  | x :: t => if x = b then some t else none

/-- The value of a lower-case hex digit (30_encoding.md R112). -/
def hexVal (b : Byte) : Option Nat :=
  if 0x30 ≤ b.toNat ∧ b.toNat ≤ 0x39 then some (b.toNat - 0x30)
  else if 0x61 ≤ b.toNat ∧ b.toNat ≤ 0x66 then some (b.toNat - 0x61 + 10)
  else none

/-- The five values `uesc` must not have, "because those five have a short escape" (30_encoding.md R110). -/
def hasShortEscape (v : Nat) : Bool := v == 0x08 || v == 0x09 || v == 0x0A || v == 0x0C || v == 0x0D

/-- `uesc` after its backslash and `u` (30_encoding.md R110, R112): `00`, hexhi, hexlo. -/
def unicodeEscape : List Byte → Option (Symbol × List Byte)
  | z1 :: z2 :: hi :: lo :: t =>
    if z1 = chZero ∧ z2 = chZero ∧ (hi = chZero ∨ hi = chOne) then
      match hexVal hi, hexVal lo with
      | some h, some l => if hasShortEscape (16 * h + l) then none else some (16 * h + l, t)
      | _, _ => none
    else none
  | _ => none

/-- `shortesc` or `uesc` after its backslash (30_encoding.md R110, R112). -/
def escapeChar : List Byte → Option (Symbol × List Byte)
  | [] => none
  | x :: t =>
    match shortEscapes.lookup x with
    | some c => some (c, t)
    | none => if x = chU then unicodeEscape t else none

/-- `literal` (30_encoding.md R110): one well-formed UTF-8 sequence with c >= 0x20, c != 0x22 and c != 0x5C. -/
def literalChar (X : List Byte) : Option (Symbol × List Byte) :=
  match utf8Head X with
  | some (c, k) => if 0x20 ≤ c ∧ c ≠ 0x22 ∧ c ≠ 0x5C then some (c, X.drop k) else none
  | none => none

/-- `KeyChar()` (46_container.md R265). -/
def keyChar : List Byte → Option (Symbol × List Byte)
  | [] => none
  | x :: t => if x = chBackslash then escapeChar t else literalChar (x :: t)

/-- The bits of a code: every 0 and 1 byte from here on (46_container.md R265). -/
def takeCode : List Byte → Bits × List Byte
  | [] => ([], [])
  | x :: t =>
    if x = chZero then (false :: (takeCode t).1, (takeCode t).2)
    else if x = chOne then (true :: (takeCode t).1, (takeCode t).2)
    else ([], x :: t)

/-- One entry (46_container.md R265): a key of one character, a colon, a non-empty code. -/
def parseEntry (X : List Byte) : Option ((Symbol × Bits) × List Byte) := do
  let X ← expect chQuote X
  let (s, X) ← keyChar X
  let X ← expect chQuote X
  let X ← expect chColon X
  let X ← expect chQuote X
  let (c, X) := takeCode X
  if c = [] then none
  else
    let X ← expect chQuote X
    some ((s, c), X)

/-- The loop of ParseTable over the entries, up to the closing brace (46_container.md R265). Every pass consumes at
least one byte, so the text's own length bounds the passes. -/
def parseEntries : Nat → List Byte → Option (Codes × List Byte)
  | 0, _ => none
  | fuel + 1, X => do
    let (e, X) ← parseEntry X
    match expect chComma X with
    | some X =>
      let (es, X) ← parseEntries fuel X
      some (e :: es, X)
    | none =>
      let X ← expect chClose X
      some ([e], X)

/-- The whole table text (30_encoding.md R110): the region from its first byte to its last. -/
def parseTableText (X : List Byte) : Option Codes := do
  let X ← expect chOpen X
  match expect chClose X with
  | some [] => some []
  | some (_ :: _) => none
  | none =>
    match parseEntries X.length X with
    | some (es, []) => some es
    | some (_, _ :: _) => none
    | none => none

/-- `ParseTable(X)` (46_container.md R265). -/
def parseTable (X : List Byte) : Result Codes := orRaise .tableSyntax (parseTableText X)

end Sys2Proof.Machine
end

