-- ==== Sys2Proof/Machine/Frequency.lean ====
section
/-! DEFINITION. The text scan and the frequency table (41_text_and_frequency.md R160 to R165). -/

namespace Sys2Proof.Machine

/-- `FREQ[c] <- FREQ[c] + 1` on the entry of c, in place; a table without c is unchanged. -/
def Freq.bump (c : Symbol) : Freq → Freq
  | [] => []
  | (x, n) :: f => if x = c then (x, n + 1) :: f else (x, n) :: Freq.bump c f

/-- `c in FREQ`. -/
def Freq.has (c : Symbol) (f : Freq) : Bool := f.any fun e => e.1 == c

/-- One symbol of the pass (41_text_and_frequency.md R161): count it in place, or append it as new, unless FREQ is
full. -/
def Freq.count (p : Params) (c : Symbol) (f : Freq) : Result Freq :=
  if Freq.has c f then .ok (Freq.bump c f)
  else if f.length = p.maxSymbols then raise .capSymbols
  else .ok (f ++ [(c, 1)])

/-- The pass of ScanAndCount over the text (41_text_and_frequency.md R161). `skip` is how many bytes of the sequence
decoded last still stand before position p ("p <- p + k"). -/
def scanFrom (p : Params) : Nat → List Byte → List Symbol → Freq → Result (List Symbol × Freq)
  | _, [], syms, freq => .ok (syms, freq)
  | skip + 1, _ :: t, syms, freq => scanFrom p skip t syms freq
  | 0, b :: t, syms, freq =>
    match utf8Head (b :: t) with
    | none => raise .illFormedUtf8
    | some (c, k) =>
      match Freq.count p c freq with
      | .error h => .error h
      | .ok freq' => scanFrom p (k - 1) t (syms ++ [c]) freq'

/-- `ScanAndCount(T)` (41_text_and_frequency.md R161). -/
def scanAndCount (p : Params) (T : List Byte) : Result (List Symbol × Freq) := scanFrom p 0 T [] []

end Sys2Proof.Machine
end

