-- ==== Sys2Proof/Machine/SymbolDecoder.lean ====
section
/-! DEFINITION. The symbol decoder: the reverse-map walk and the tree walker
(47_symbol_decoder.md R290 to R296). -/

namespace Sys2Proof.Machine

/-- Emit a decoded symbol (47_symbol_decoder.md R290, R293). -/
def emit (p : Params) (out : List Byte) (c : Symbol) : Result (List Byte) :=
  if out.length + (utf8Encode c).length > p.outBytes then raise .capOutput
  else .ok (out ++ utf8Encode c)

/-- The loop of DecodeSymbols over the bits (47_symbol_decoder.md R290), with its accumulated bits and output. -/
def decodeFrom (p : Params) (rev : RevTable) : Bits → Bits → List Byte → Result (List Byte)
  | [], acc, out => if acc = [] then .ok out else raise .trailingBits
  | b :: S, acc, out =>
    match rev.symbolOf (acc ++ [b]) with
    | some c =>
      match emit p out c with
      | .error h => .error h
      | .ok out' => decodeFrom p rev S [] out'
    | none =>
      if rev.hasLonger (acc ++ [b]) then decodeFrom p rev S (acc ++ [b]) out
      else raise .badCode

/-- `DecodeSymbols(S, REV)` (47_symbol_decoder.md R290). -/
def decodeSymbols (p : Params) (S : Bits) (rev : RevTable) : Result (List Byte) := decodeFrom p rev S [] []

/-! ## The tree walker (47_symbol_decoder.md R296) -/

/-- A binary trie: a missing child, a leaf that holds its symbol, or a node with a child for 0 and one for 1. -/
inductive Trie where
  | missing
  | leaf (symbol : Symbol)
  | node (zero one : Trie)
  deriving DecidableEq, Repr

/-- Add the path of a code, ending at a leaf that holds its symbol. A table that passes BuildReverse never puts a path
through a leaf. -/
def Trie.insert (s : Symbol) : Bits → Trie → Trie
  | [], _ => .leaf s
  | false :: c, .node z o => .node (Trie.insert s c z) o
  | true :: c, .node z o => .node z (Trie.insert s c o)
  | false :: c, _ => .node (Trie.insert s c .missing) .missing
  | true :: c, _ => .node .missing (Trie.insert s c .missing)

/-- The trie of a reverse table. -/
def Trie.ofTable (rev : RevTable) : Trie := rev.foldl (fun t r => Trie.insert r.2 r.1 t) .missing

/-- The child a bit leads to. -/
def Trie.child : Trie → Bool → Trie
  | .node z _, false => z
  | .node _ o, true => o
  | _, _ => .missing

/-- The walk from a place in the trie (47_symbol_decoder.md R296); `away` says that it is not the root. -/
def walkFrom (p : Params) (root : Trie) : Bits → Trie → Bool → List Byte → Result (List Byte)
  | [], _, away, out => if away then raise .trailingBits else .ok out
  | b :: S, here, _, out =>
    match here.child b with
    | .missing => raise .badCode
    | .leaf c =>
      match emit p out c with
      | .error h => .error h
      | .ok out' => walkFrom p root S root false out'
    | .node z o => walkFrom p root S (.node z o) true out

/-- The tree walker (47_symbol_decoder.md R296). -/
def walkSymbols (p : Params) (S : Bits) (rev : RevTable) : Result (List Byte) :=
  walkFrom p (Trie.ofTable rev) S (Trie.ofTable rev) false []

end Sys2Proof.Machine
end

