-- ==== Sys2Proof/Machine/Codec.lean ====
section
/-! DEFINITION. The functions COMPRESS and DECOMPRESS compute, pure functions of the input bytes and the four capacity
parameters (40_commands.md R143, R144, R146, R147). -/

namespace Sys2Proof.Machine

/-- `Compress` of the input text, after the IN_LEN check (40_commands.md R143; the output capacity: log entry 17,
DEDUCED). -/
def compressText (p : Params) (T : List Byte) : Result (List Byte) := do
  raiseIf (T.length = 0) .zeroLength
  let (syms, freq) ← scanAndCount p T
  let (nodes, root) ← buildTree freq
  let codes ← genCodes nodes root
  checkCodeLen p codes
  let bits ← concatCodes codes syms
  let blob := frame (serializeTable codes) (pack bits)
  raiseIf (blob.length > p.outBytes) .capOutput
  .ok blob

/-- `Decompress` of the container, after the IN_LEN check (40_commands.md R144). -/
def decompressBlob (p : Params) (C : List Byte) : Result (List Byte) := do
  let (text, P) ← splitContainer C
  let entries ← parseTable text
  let rev ← buildReverse p entries
  let bits ← unpack P
  decodeSymbols p bits rev

/-- The command function of an operation (10_state.md R47). -/
def runOp (p : Params) : Op → List Byte → Result (List Byte)
  | .compress, T => compressText p T
  | .decompress, C => decompressBlob p C

end Sys2Proof.Machine
end

