-- ==== Sys2Proof/Machine/Engine.lean ====
section
/-! DEFINITION. The completion step, the engine's only step (10_state.md R47). -/

namespace Sys2Proof.Machine

/-- The result of the command in progress (10_state.md R47, 40_commands.md R143, R144): IN_LEN is checked first, and
the input bytes are not read when it is too large. -/
def State.commandResult (s : State) : Result (List Byte) :=
  if s.inputLength > s.params.inBytes then raise .capInLen
  else runOp s.params s.curOp s.inputBytes

/-- Completion (10_state.md R47): one atomic transition that commits the result. -/
def completion (s : State) : Host.Outcome State Fault Refusal :=
  match s.commandResult with
  | .ok out => .next (s.recordOutput out).retire
  | .error (.raise e) => .next (s.recordError e).retire
  | .error (.stuck why) => .fault (.stuck why)

/-- The engine takes its step: completion, "enabled exactly when ENG_STATE = BUSY" (10_state.md R47) and never while rst
is asserted (70_reset_and_hazards.md R350); otherwise nothing happens. -/
def engineTurn (s : State) : Host.Outcome State Fault Refusal :=
  match s.rst, s.engine with
  | false, .busy => completion s
  | false, .idle => .next s
  | true, _ => .next s

end Sys2Proof.Machine
end

