-- ==== Sys2Proof/Machine/Script.lean ====
section
/-! DEFINITION. The host's steps and the other inputs (30_encoding.md R118 to R120, 20_memory.md R81,
70_reset_and_hazards.md R350). -/

namespace Sys2Proof.Machine

/-- A read by the host: its value goes to `k`; BusError is a fault of the host's step (20_memory.md R72). -/
def hostRead (a : Word) (n : Nat) (k : Word → State → State) (s : State) : Host.Outcome State Fault Refusal :=
  match memRead a n s with
  | none => .fault (.busError a n)
  | some (v, s') => .next (k v (s'.respond (.value v)))

/-- A write by the host. -/
def hostWrite (a : Word) (n : Nat) (v : Word) (s : State) : Host.Outcome State Fault Refusal :=
  memWrite a n v (s.respond .written)

/-- One poll of WAIT (30_encoding.md R119): the loop ends when bit 1 (DONE) of the value read is 1. -/
def waitPoll (polls : Nat) (s : State) : Host.Outcome State Fault Refusal :=
  hostRead statusAddr 4 (fun v s => if v.getLsbD 1 then s else s.push (.wait (polls - 1))) s

/-- A step of WAIT (log entry 13, DESIGN CHOICE): while BUSY with no poll left before completion, the engine takes its step and the
WAIT stays; otherwise the host polls. -/
def hostWait (polls : Nat) (s : State) : Host.Outcome State Fault Refusal :=
  match s.engine, polls with
  | .busy, 0 => engineTurn (s.push (.wait 0))
  | .busy, n + 1 => waitPoll (n + 1) s
  | .idle, n => waitPoll n s

/-- The address of IN[i] on the bus (20_memory.md R71). -/
def inAddr (i : Nat) : Word := BitVec.ofNat 32 (inBase + i)

/-- The address of OUT[i] on the bus (20_memory.md R71). -/
def outAddr (i : Nat) : Word := BitVec.ofNat 32 (outBase + i)

/-- A step of COPYOUT from byte i on (30_encoding.md R119): R8 OUT_BASE+i and then W8 IN_BASE+i of that byte, up to n;
then W32 IN_LEN, n. -/
def hostCopyFrom (i n : Nat) (s : State) : Host.Outcome State Fault Refusal :=
  if i < n then
    hostRead (outAddr i) 1 (fun v s => (s.push (.copyFrom (i + 1) n)).push (.write (inAddr i) 1 v)) s
  else hostWrite inLenAddr 4 (BitVec.ofNat 32 n) s

/-- One step of the host (30_encoding.md R118, R119). -/
def hostStep (op : HostOp) (s : State) : Host.Outcome State Fault Refusal :=
  match op with
  | .read a n => hostRead a n (fun _ s => s) s
  | .write a n v => hostWrite a n v s
  | .wait polls => hostWait polls s
  | .copyOut => hostRead outLenAddr 4 (fun v s => s.push (.copyFrom 0 v.toNat)) s
  | .copyFrom i n => hostCopyFrom i n s

/-- The host's turn: while rst is asserted it gets no response and its access has no effect
(70_reset_and_hazards.md R350; log entry 10, DESIGN CHOICE). -/
def hostTurn (op : HostOp) (s : State) : Host.Outcome State Fault Refusal :=
  if s.rst then .next (s.respond .silent) else hostStep op s

/-- What an input does (20_memory.md R81, 70_reset_and_hazards.md R350). -/
def takeInput (i : Input) (s : State) : Host.Outcome State Fault Refusal :=
  match i with
  | .host op => hostTurn op s
  | .engine => engineTurn s
  | .rst level => .next (s.driveRst level)

/-! ## The pseudo-operations that expand to primitives (30_encoding.md R119) -/

/-- `CMDW w`; `CMD NOP`, `CMD COMPRESS` and `CMD DECOMPRESS` are `CMDW` of 0, 1 and 2. -/
def scriptCmd (w : Word) : List Input := [.host (.write cmdAddr 4 w)]

/-- The W8 accesses of LOADIN, from byte i on. -/
def scriptBytes : Nat → List Byte → List Input
  | _, [] => []
  | i, b :: bs => .host (.write (inAddr i) 1 (b.setWidth 32)) :: scriptBytes (i + 1) bs

/-- `LOADIN b0 b1 ... bn-1`. -/
def scriptLoadIn (bs : List Byte) : List Input :=
  scriptBytes 0 bs ++ [.host (.write inLenAddr 4 (BitVec.ofNat 32 bs.length))]

/-- `ACK`. -/
def scriptAck : List Input := [.host (.write statusAddr 4 0x00000002#32)]

/-- `DUMP n`. -/
def scriptDump (n : Nat) : List Input := (List.range n).map fun i => .host (.read (outAddr i) 1)

end Sys2Proof.Machine
end

