-- ==== Sys2Proof/Machine/Step.lean ====
section
/-! DEFINITION. One step of the machine: the next step of the interleaving of host and engine (20_memory.md R81). -/

namespace Sys2Proof.Machine

/-- One step. The next input still to come happens; when none is left, a BUSY engine completes ("a command that has been
accepted completes after finitely many steps", 70_reset_and_hazards.md R360) and an IDLE block waits, unchanged
(R352). -/
def step (s : State) : Host.Outcome State Fault Refusal :=
  match s.inputs with
  | [] => engineTurn s
  | i :: rest => takeInput i { s with inputs := rest }

/-- The state in which the host's next step is to write a command word to CMD (log entry 3, DESIGN CHOICE): the access is put before
everything still to come, and rst is deasserted, since the host gets no response while it is asserted. -/
def State.withFetchWord (s : State) (nbits w : Nat) : State :=
  { s with
    rst := false
    inputs := .host (.write cmdAddr 4 (BitVec.ofNat 32 (w % 2 ^ nbits))) :: s.inputs }

end Sys2Proof.Machine
end

