-- ==== Sys2Proof/Safety.lean ====
section
/-! DEFINITION. What the statements speak of: the invariant of the machine, permitted accesses, and the codec
properties the rules name. -/

namespace Sys2Proof.Machine

/-! ## The machine -/

/-- An access that the bus permits (20_memory.md R71 to R75), written out from the rules. -/
def Permitted (p : Params) (a : Word) (n : Nat) : Prop :=
  (n = 4 ∧ a.toNat % 4 = 0 ∧ a.toNat ≤ 0xFFC) ∨
  ((n = 1 ∨ n = 2 ∨ n = 4) ∧ a.toNat % n = 0 ∧ 0x40000000 ≤ a.toNat ∧ a.toNat + n ≤ 0x40000000 + p.inBytes) ∨
  ((n = 1 ∨ n = 2 ∨ n = 4) ∧ a.toNat % n = 0 ∧ 0x80000000 ≤ a.toNat ∧ a.toNat + n ≤ 0x80000000 + p.outBytes)

/-- A permitted host read or write, or an engine turn: an input after which the machine goes on, and which resets
nothing. -/
def QuietInput (p : Params) : Input → Prop
  | .host (.read a n) => Permitted p a n
  | .host (.write a n _) => Permitted p a n
  | .host (.wait _) => False
  | .host .copyOut => False
  | .host (.copyFrom _ _) => False
  | .engine => True
  | .rst _ => False

/-- The invariant of the machine. -/
structure State.Inv (s : State) : Prop where
  /-- The capacities are in their legal ranges (00_scope.md R9). -/
  legal : s.params.Legal
  /-- IN_MEM is in canonical form, inside P_IN_BYTES (10_state.md R38). -/
  inMem : Memory.wf s.inMem = true ∧ Memory.below s.params.inBytes s.inMem = true
  /-- OUT_MEM is in canonical form, inside P_OUT_BYTES (10_state.md R39). -/
  outMem : Memory.wf s.outMem = true ∧ Memory.below s.params.outBytes s.outMem = true
  /-- OUT_LEN never passes P_OUT_BYTES (10_state.md R47). -/
  outLen : s.outLen.toNat ≤ s.params.outBytes
  /-- ERR is 0 without an error, and otherwise one of the codes of 60_exceptions.md R310, never another. -/
  errCode : if s.statusErr then ∃ e : Err, s.errReg = e.word else s.errReg = 0#32
  /-- An error leaves no output (10_state.md R32). -/
  errNoOutput : s.statusErr = true → s.outLen = 0#32
  /-- While BUSY, DONE, ERR and OUT_LEN read 0 (10_state.md R49), and the working state is what acceptance made it
  (R45). -/
  busy : s.engine = .busy →
    s.statusDone = false ∧ s.statusErr = false ∧ s.errReg = 0#32 ∧ s.outLen = 0#32 ∧ s.work = Work.empty
  /-- While IDLE, the specified bytes of OUT_MEM are those below OUT_LEN (10_state.md R39). -/
  output : s.engine = .idle → s.outMem.map (·.1) = List.range s.outLen.toNat
  /-- While rst is asserted the block is as reset left it: IDLE, with irq low (70_reset_and_hazards.md R350). -/
  inReset : s.rst = true → s.engine = .idle ∧ s.irq = false
  /-- The draw numbers in use are spent ones, so a new draw is never one in use (log entry 6). -/
  fresh : s.inDraw < s.draws ∧ s.outDraw < s.draws

/-! ## The codec -/

/-- A queue in ascending priority order (42_priority_queue.md R180). -/
def Queue.Ascending (q : Queue) : Prop := q.Pairwise fun a b => a.1 ≤ b.1

/-- The children of a node (43_tree_builder.md R201). -/
def Node.children : Node → List Nat
  | .leaf _ _ => []
  | .internal _ l r => [l, r]

/-- No two codes of a table are equal, and none is a proper prefix of another (44_code_tables.md R223). -/
def PrefixFree (codes : Codes) : Prop :=
  (codes.map (·.2)).Nodup ∧ ∀ a ∈ codes, ∀ b ∈ codes, properPrefix a.2 b.2 = false

/-- The code table COMPRESS derives from a frequency table (40_commands.md R143). -/
def codesOf (freq : Freq) : Result Codes := do
  let (nodes, root) ← buildTree freq
  genCodes nodes root

end Sys2Proof.Machine
end

