-- ==== Sys2Proof/Certificates/Slice0/Obligations.lean ====
section
/-! DEFINITION. The statements for the provers. Each docstring names the rule of spec/ it formalises. -/

open Sys2Proof Sys2Proof.Machine

/-! ## Encoding and the step -/

/-- When the host's next step is a write of w to CMD, a step of the machine is exec of the instruction w decodes to, at
the state without that input (10_state.md R24, 40_commands.md R140). -/
def Obligations.StepRunsTheDecodedCommand : Prop :=
  ∀ (s : State) (w : Word) (rest : List Input),
    s.rst = false → s.inputs = .host (.write cmdAddr 4 w) :: rest →
    step s = exec (decode w) { s with inputs := rest, response := .written }

/-- A word placed by withFetchWord runs as the instruction the decoder reads from it, and the inputs that were still to
come stay. -/
def Obligations.FetchedWordRunsAsDecoded : Prop :=
  ∀ (s : State) (nbits w : Nat), nbits ≤ 32 →
    ∃ i, decodeTableWord nbits w = some i ∧
      step (s.withFetchWord nbits w) = exec i { s with rst := false, response := .written }

/-- Words written out from 30_encoding.md R101 and R102 decode to their commands. -/
def Obligations.SpecWordsDecode : Prop :=
  decode 0x00000000#32 = .nop ∧ decode 0x00000001#32 = .compress ∧ decode 0x00000002#32 = .decompress ∧
  decode 0xABCDEF13#32 = .illegalOp3 0xABCDEF1#28 ∧ decode 0x00000006#32 = .illegalOp47 0#28 2#2 ∧
  decode 0x0000001F#32 = .illegalOp8F 1#28 7#3 ∧ decode 0x80000001#32 = .illegalBits 0x8000000#28 1#2

/-- Decoding an encoded well-formed instruction gives it back, whatever its fields. -/
def Obligations.DecodeOfEncode : Prop := ∀ i : Instr, i.WellFormed → decode (encode i) = i

/-- Every word is the encoding of the well-formed instruction it decodes to. -/
def Obligations.EncodeOfDecode : Prop := ∀ w : Word, (decode w).WellFormed ∧ encode (decode w) = w

/-- The decoder takes the first row of the opcode table that the word matches (30_encoding.md R102). -/
def Obligations.DecodeIsFirstMatchingRow : Prop := ∀ w : Word, firstRow w = some (decode w).row

/-- 40_commands.md R140 and 30_encoding.md R102, by the numeric value of the word's fields: a word written while BUSY is
dropped and sets OVR, and nothing else changes; while IDLE the first case of R102 that holds decides. -/
def Obligations.CommandDispatch : Prop :=
  ∀ (s : State) (w : Word),
    (s.engine = .busy → exec (decode w) s = .next { s with statusOvr := true }) ∧
    (s.engine = .idle →
      (3 ≤ w.toNat % 16 → exec (decode w) s = .next (s.recordError .reservedOp)) ∧
      (w.toNat % 16 < 3 → w.toNat / 16 ≠ 0 → exec (decode w) s = .next (s.recordError .reservedBits)) ∧
      (w.toNat = 0 → exec (decode w) s = .next s) ∧
      (w.toNat = 1 → exec (decode w) s = .next (s.accept .compress)) ∧
      (w.toNat = 2 → exec (decode w) s = .next (s.accept .decompress)))

/-! ## The commands -/

/-- 40_commands.md R141: the word 0x00000000 is NOP; while IDLE the write completes with no change to any state, and
while BUSY it is dropped and sets OVR. -/
def Obligations.NopChangesNothing : Prop :=
  decode 0x00000000#32 = .nop ∧
  ∀ s : State, (s.engine = .idle → exec .nop s = .next s) ∧
    (s.engine = .busy → exec .nop s = .next { s with statusOvr := true })

/-- 40_commands.md R145: what accepting COMPRESS or DECOMPRESS writes, and nothing else changes; acceptance always
succeeds while IDLE. -/
def Obligations.CodecCommandsAreAccepted : Prop :=
  ∀ s : State, s.engine = .idle →
    (exec .compress s = .next { s with
      curOp := .compress, engine := .busy, statusDone := false, statusErr := false, errReg := 0#32, outLen := 0#32,
      work := { freq := [], syms := [], pq := [], nodes := [], codes := [], rev := [], bits := [], acc := [] } }) ∧
    (exec .decompress s = .next { s with
      curOp := .decompress, engine := .busy, statusDone := false, statusErr := false, errReg := 0#32, outLen := 0#32,
      work := { freq := [], syms := [], pq := [], nodes := [], codes := [], rev := [], bits := [], acc := [] } })

/-- 40_commands.md R142: a reserved command word written while IDLE (OP in 0x3..0xF, or OP in 0x0..0x2 with RSVD != 0)
writes ERR = 0x00000106 or 0x00000206, sets STATUS.ERR and DONE, writes OUT_LEN 0, leaves the engine IDLE, and changes
nothing else but OUT_MEM, whose bytes take any value: the statement leaves its three fields open. The four constructors
are those of `i`; `w` is the word. -/
def Obligations.IllegalWordsAreRecorded : Prop :=
  ∀ (i : Instr) (w : Word) (s : State), s.engine = .idle → i = decode w →
    3 ≤ w.toNat % 16 ∨ w.toNat / 16 ≠ 0 →
    (i.row = .illegalOp3 ∨ i.row = .illegalOp47 ∨ i.row = .illegalOp8F ∨ i.row = .illegalBits) ∧
    ∃ t, exec i s = .next t ∧
      t = { s with
        outLen := 0#32
        errReg := if 3 ≤ w.toNat % 16 then 0x00000106#32 else 0x00000206#32
        statusErr := true, statusDone := true
        outMem := t.outMem, outDraw := t.outDraw, draws := t.draws }

/-- The frame of every command word: no command word writes IN_MEM, IN_LEN, CTRL, WLOCK, a capacity, the reset input or
the inputs to come; it sets OVR only while BUSY; only an accepted word writes CUR_OP; and no byte of OUT_MEM changes
unless the word is illegal and written while IDLE, where each byte is an any-value (a fresh draw, log entries 5
and 6). -/
def Obligations.CommandFrame : Prop :=
  ∀ (i : Instr) (s t : State), exec i s = .next t →
    (t.params = s.params ∧ t.ie = s.ie ∧ t.statusWlock = s.statusWlock ∧ t.inLen = s.inLen ∧ t.rst = s.rst ∧
      t.inputs = s.inputs ∧ t.response = s.response) ∧
    (∀ k, t.inByte k = s.inByte k) ∧
    (t.statusOvr = s.statusOvr ∨ s.engine = .busy) ∧
    (t.curOp = s.curOp ∨ (i = .compress ∧ t.curOp = .compress) ∨ (i = .decompress ∧ t.curOp = .decompress)) ∧
    (s.engine = .busy ∨ i = .nop ∨ i = .compress ∨ i = .decompress → ∀ k, t.outByte k = s.outByte k) ∧
    (s.engine = .idle → i ≠ .nop → i ≠ .compress → i ≠ .decompress →
      ∀ k, t.outByte k = Config.freeOutByte s.draws k)

/-! ## Completion -/

/-- 10_state.md R47: completion is enabled exactly when ENG_STATE = BUSY. Its result is an error where IN_LEN is above
P_IN_BYTES (40_commands.md R143, R144) and otherwise the one of the command in CUR_OP on IN[0 .. IN_LEN). A success
writes its bytes to OUT_MEM from OUT[0] on, OUT_LEN their number, ERR and STATUS.ERR 0; an error writes OUT_LEN 0, ERR
DETAIL*256 + CLASS, STATUS.ERR 1; either sets DONE and takes the engine to IDLE. The other bytes of OUT_MEM take any
value: the statement leaves them open. -/
def Obligations.CompletionCommitsTheResult : Prop :=
  ∀ s : State, s.rst = false → s.params.Legal →
    (s.engine = .idle → engineTurn s = .next s) ∧
    (s.inLen.toNat > s.params.inBytes → s.commandResult = raise .capInLen) ∧
    (s.inLen.toNat ≤ s.params.inBytes → s.curOp = .compress →
      s.commandResult = compressText s.params ((List.range s.inLen.toNat).map s.inByte)) ∧
    (s.inLen.toNat ≤ s.params.inBytes → s.curOp = .decompress →
      s.commandResult = decompressBlob s.params ((List.range s.inLen.toNat).map s.inByte)) ∧
    (s.engine = .busy → ∀ out, s.commandResult = .ok out →
      ∃ t, engineTurn s = .next t ∧ out.length ≤ s.params.outBytes ∧
        (∀ i, i < out.length → some (t.outByte i) = out[i]?) ∧ t.outLen.toNat = out.length ∧ t.errReg = 0#32 ∧
        t.statusErr = false ∧ t.statusDone = true ∧ t.engine = .idle) ∧
    (s.engine = .busy → ∀ e, s.commandResult = raise e →
      ∃ t, engineTurn s = .next t ∧ t.outLen = 0#32 ∧ t.errReg.toNat = e.detail * 256 + e.cls ∧
        t.statusErr = true ∧ t.statusDone = true ∧ t.engine = .idle)

/-- COMPRESS as a whole (40_commands.md R143, R145, 10_state.md R47): the word is accepted, and when the engine takes
its step the blob that Compress makes of IN[0 .. IN_LEN) at acceptance stands in OUT_MEM, with OUT_LEN its length,
ERR = 0 and DONE set. -/
def Obligations.CompressWritesTheBlob : Prop :=
  ∀ (s : State) (blob : List Byte), s.engine = .idle → s.rst = false → s.params.Legal →
    s.inputLength ≤ s.params.inBytes → compressText s.params s.inputBytes = .ok blob →
    ∃ t u, exec .compress s = .next t ∧ engineTurn t = .next u ∧
      u.outLen.toNat = blob.length ∧ u.outputBytes blob.length = blob ∧ blob.length ≤ s.params.outBytes ∧
      u.errReg = 0#32 ∧ u.statusErr = false ∧ u.statusDone = true ∧ u.engine = .idle

/-- DECOMPRESS as a whole (40_commands.md R144, R145, 10_state.md R47). -/
def Obligations.DecompressWritesTheText : Prop :=
  ∀ (s : State) (text : List Byte), s.engine = .idle → s.rst = false → s.params.Legal →
    s.inputLength ≤ s.params.inBytes → decompressBlob s.params s.inputBytes = .ok text →
    ∃ t u, exec .decompress s = .next t ∧ engineTurn t = .next u ∧
      u.outLen.toNat = text.length ∧ u.outputBytes text.length = text ∧ text.length ≤ s.params.outBytes ∧
      u.errReg = 0#32 ∧ u.statusErr = false ∧ u.statusDone = true ∧ u.engine = .idle

/-- 60_exceptions.md R312: a completion that ends in an error records DETAIL*256 + CLASS in ERR, sets STATUS.ERR and
STATUS.DONE, and writes OUT_LEN 0; IN_MEM is unchanged and IN_LEN keeps its value. -/
def Obligations.FailedCompletionRecordsTheError : Prop :=
  ∀ (s : State) (e : Err), s.engine = .busy → s.rst = false → s.commandResult = raise e →
    ∃ t, engineTurn s = .next t ∧
      t.errReg.toNat = e.detail * 256 + e.cls ∧ t.statusErr = true ∧ t.statusDone = true ∧ t.outLen = 0#32 ∧
      t.engine = .idle ∧ t.inLen = s.inLen ∧ ∀ k, t.inByte k = s.inByte k

/-- 60_exceptions.md R317, 10_state.md R47, 20_memory.md R80: completion leaves IN_MEM, IN_LEN, CTRL, OVR, WLOCK,
CUR_OP, the capacities and the inputs to come as they are, whether the command succeeds or fails. Of OUT_MEM, only the
bytes below OUT_LEN are specified: every other byte is an any-value (a fresh draw, log entries 5 and 6). -/
def Obligations.CompletionFrame : Prop :=
  ∀ s t : State, engineTurn s = .next t →
    (t.inLen = s.inLen ∧ t.ie = s.ie ∧ t.statusOvr = s.statusOvr ∧ t.statusWlock = s.statusWlock ∧
      t.curOp = s.curOp ∧ t.params = s.params ∧ t.inputs = s.inputs ∧ t.rst = s.rst ∧ t.response = s.response) ∧
    (∀ k, t.inByte k = s.inByte k) ∧
    (s.engine = .busy → s.rst = false → s.params.Legal →
      ∀ k, t.outLen.toNat ≤ k → t.outByte k = Config.freeOutByte s.draws k)

/-- 42_priority_queue.md R185 (the spec's inference), 70_reset_and_hazards.md R360: no stuck state is reachable, neither
Pop on an empty queue nor the model's own cases (log entry 15). A BUSY engine that takes its step always completes. -/
def Obligations.CompletionIsNeverStuck : Prop :=
  ∀ s : State, s.engine = .busy → s.rst = false →
    ∃ t, engineTurn s = .next t ∧ t.engine = .idle ∧ t.statusDone = true

/-- 40_commands.md R147: the result of a command depends on nothing but its opcode, IN_LEN, the bytes IN[0 .. IN_LEN)
and the four capacity parameters. -/
def Obligations.ResultDependsOnlyOnTheInput : Prop :=
  ∀ s t : State, s.params = t.params → s.curOp = t.curOp → s.inLen = t.inLen →
    (∀ k, k < s.inLen.toNat → s.inByte k = t.inByte k) → s.commandResult = t.commandResult

/-- 40_commands.md R143, R144, 60_exceptions.md R314, R315: IN_LEN above P_IN_BYTES is reported before anything else,
then the empty input of COMPRESS and the short header of DECOMPRESS. -/
def Obligations.LengthErrorsComeFirst : Prop :=
  ∀ s : State, s.engine = .busy → s.rst = false →
    (s.inLen.toNat > s.params.inBytes → ∃ t, engineTurn s = .next t ∧ t.errReg = 0x00000104#32) ∧
    (s.inLen.toNat ≤ s.params.inBytes → s.curOp = .compress → s.inLen.toNat = 0 →
      ∃ t, engineTurn s = .next t ∧ t.errReg = 0x00000101#32) ∧
    (s.inLen.toNat ≤ s.params.inBytes → s.curOp = .decompress → s.inLen.toNat < 4 →
      ∃ t, engineTurn s = .next t ∧ t.errReg = 0x00000102#32)

/-- 40_commands.md R143, R144, 60_exceptions.md R310 ("raised by"): which errors each command can report. -/
def Obligations.ErrorsOfEachCommand : Prop :=
  ∀ (p : Params) (bs : List Byte) (e : Err),
    (compressText p bs = raise e →
      e = .zeroLength ∨ e = .illFormedUtf8 ∨ e = .capSymbols ∨ e = .capCodeLen ∨ e = .capOutput) ∧
    (decompressBlob p bs = raise e →
      e = .shortHeader ∨ e = .tableLen ∨ e = .tableSyntax ∨ e = .emptyTable ∨ e = .capSymbols ∨ e = .capCodeLen ∨
      e = .dupKey ∨ e = .notInjective ∨ e = .notPrefixFree ∨ e = .noPadding ∨ e = .padRange ∨ e = .padExceeds ∨
      e = .badCode ∨ e = .capOutput ∨ e = .trailingBits)

/-! ## The codec as a whole -/

/-- 40_commands.md R148: DECOMPRESS of the blob COMPRESS made gives the text back, whenever the text fits. -/
def Obligations.DecompressInvertsCompress : Prop :=
  ∀ (p : Params) (T blob : List Byte), p.Legal → compressText p T = .ok blob → T.length ≤ p.outBytes →
    decompressBlob p blob = .ok T

/-- 40_commands.md R149: the blob of n copies of one symbol, byte by byte. -/
def Obligations.SingleSymbolBlob : Prop :=
  ∀ (p : Params) (c : Symbol) (n : Nat), p.Legal → isScalar c → 1 ≤ n →
    4 + ([chOpen, chQuote] ++ escapeKey c ++ [chQuote, chColon, chQuote, chZero, chQuote, chClose]).length +
      1 + (n + 7) / 8 ≤ p.outBytes →
    compressText p (List.replicate n (utf8Encode c)).flatten =
      .ok (lengthField ([chOpen, chQuote] ++ escapeKey c ++ [chQuote, chColon, chQuote, chZero, chQuote, chClose]).length
        ++ ([chOpen, chQuote] ++ escapeKey c ++ [chQuote, chColon, chQuote, chZero, chQuote, chClose])
        ++ BitVec.ofNat 8 ((8 - n % 8) % 8) :: List.replicate ((n + 7) / 8) 0x00#8)

/-- 46_container.md R269: a blob COMPRESS made, cut short before the end of its table, or right after it. -/
def Obligations.TruncatedBlobIsRejected : Prop :=
  ∀ (p : Params) (T blob text payload : List Byte) (n : Nat), p.Legal → compressText p T = .ok blob →
    splitContainer blob = .ok (text, payload) →
    (n < 4 → decompressBlob p (blob.take n) = raise .shortHeader) ∧
    (4 ≤ n → n < 4 + text.length → decompressBlob p (blob.take n) = raise .tableLen) ∧
    (n = 4 + text.length → decompressBlob p (blob.take n) = raise .noPadding)

/-! ## Text and frequencies -/

/-- 30_encoding.md R108, R109: Utf8Decode inverts Utf8Encode whatever follows, and a well-formed sequence is the only
encoding of the one scalar value it encodes. -/
def Obligations.Utf8DecodeInvertsEncode : Prop :=
  (∀ (c : Symbol) (rest : List Byte), isScalar c →
    utf8Head (utf8Encode c ++ rest) = some (c, (utf8Encode c).length)) ∧
  (∀ (bs : List Byte) (c : Symbol) (k : Nat), utf8Head bs = some (c, k) →
    isScalar c ∧ k ≤ bs.length ∧ bs.take k = utf8Encode c)

/-- 41_text_and_frequency.md R161 and R162: the frequency table of a text that scans. The bounds on its size, the
positive counts and their sum are R163 and R164, the spec's inferences. -/
def Obligations.FrequencyTableOfScan : Prop :=
  ∀ (p : Params) (T : List Byte) (syms : List Symbol) (freq : Freq),
    scanAndCount p T = .ok (syms, freq) →
    freq = syms.eraseDups.map (fun c => (c, syms.count c)) ∧ freq.length ≤ p.maxSymbols ∧
    (T ≠ [] → 1 ≤ freq.length) ∧ (∀ e ∈ freq, 1 ≤ e.2) ∧ (freq.map (·.2)).sum = syms.length ∧
    syms.length ≤ T.length ∧ (∀ c ∈ syms, isScalar c) ∧ utf8EncodeAll syms = T

/-- 41_text_and_frequency.md R161: a text of scalar values with at most P_MAX_SYMBOLS distinct ones scans to its symbols
and their counts in order of first occurrence (R162); and which error the scan reports otherwise, by the byte position
where it arises. -/
def Obligations.ScanReportsTheFirstError : Prop :=
  ∀ (p : Params) (syms : List Symbol) (rest : List Byte), (∀ c ∈ syms, isScalar c) →
    syms.eraseDups.length ≤ p.maxSymbols →
    scanAndCount p (utf8EncodeAll syms) = .ok (syms, syms.eraseDups.map fun c => (c, syms.count c)) ∧
    (rest ≠ [] → utf8Head rest = none → scanAndCount p (utf8EncodeAll syms ++ rest) = raise .illFormedUtf8) ∧
    (∀ c, isScalar c → c ∉ syms → syms.eraseDups.length = p.maxSymbols →
      scanAndCount p (utf8EncodeAll syms ++ utf8Encode c ++ rest) = raise .capSymbols)

/-! ## Queue, tree and codes -/

/-- 42_priority_queue.md R181, R182: Enqueue inserts after every entry of priority <= p and keeps the queue ascending;
Pop of a non-empty queue returns its first entry, which has minimum priority, and leaves the rest in their order. -/
def Obligations.QueueIsStableAndAscending : Prop :=
  ∀ (prio v : Nat) (q : Queue), Queue.Ascending q →
    enqueue prio v q = q.filter (fun e => decide (e.1 ≤ prio)) ++ (prio, v) :: q.filter (fun e => decide (prio < e.1)) ∧
    Queue.Ascending (enqueue prio v q) ∧
    ∀ e rest, q = e :: rest → pop q = some (e, rest) ∧ Queue.Ascending rest ∧ ∀ x ∈ rest, e.1 ≤ x.1

/-- 43_tree_builder.md R206, R208: the arena BuildTree returns for k >= 1 entries. -/
def Obligations.TreeOfFrequencies : Prop :=
  ∀ freq : Freq, freq ≠ [] →
    ∃ nodes, buildTree freq = .ok (nodes, 2 * freq.length - 2) ∧ nodes.length = 2 * freq.length - 1 ∧
      nodes.take freq.length = freq.map (fun e => Node.leaf e.1 e.2) ∧
      (∀ i, freq.length ≤ i → i < nodes.length →
        ∃ l r fl fr, nodes[i]? = some (.internal (fl + fr) l r) ∧ l < i ∧ r < i ∧
          (nodes[l]?.map Node.freq = some fl) ∧ (nodes[r]?.map Node.freq = some fr)) ∧
      (nodes.flatMap Node.children).Perm (List.range (2 * freq.length - 2)) ∧
      (nodes[2 * freq.length - 2]?.map Node.freq = some ((freq.map (·.2)).sum))

/-- 43_tree_builder.md R207, 44_code_tables.md R223 items 1 to 5: the code table of k >= 1 entries. -/
def Obligations.CodeTableIsPrefixFree : Prop :=
  ∀ freq : Freq, freq ≠ [] →
    ∃ codes, codesOf freq = .ok codes ∧ (codes.map (·.1)).Perm (freq.map (·.1)) ∧ PrefixFree codes ∧
      ∀ e ∈ codes, 1 ≤ e.2.length ∧ e.2.length ≤ max 1 (freq.length - 1)

/-- 44_code_tables.md R223 item 6: with k >= 2 entries the Kraft sum is exactly 1. -/
def Obligations.KraftSumIsOne : Prop :=
  ∀ (freq : Freq) (codes : Codes), 2 ≤ freq.length → codesOf freq = .ok codes →
    (codes.map fun e => (1 / 2 : ℚ) ^ e.2.length).sum = 1

/-- 44_code_tables.md R226: the reverse table of an accepted table is its exact inverse, a bijection between its symbols
and its codes. -/
def Obligations.ReverseTableIsTheInverse : Prop :=
  ∀ (p : Params) (E : Codes) (rev : RevTable), buildReverse p E = .ok rev →
    (∀ (c : Bits) (x : Symbol), rev.symbolOf c = some x ↔ (x, c) ∈ E) ∧
    (∀ (c d : Bits) (x : Symbol), rev.symbolOf c = some x → rev.symbolOf d = some x → c = d)

/-- 44_code_tables.md R225: the first check that holds decides the error, and without one the reverse table is
returned. -/
def Obligations.ReverseTableChecksInOrder : Prop :=
  ∀ (p : Params) (E : Codes),
    (E = [] → buildReverse p E = raise .emptyTable) ∧
    (E ≠ [] → E.length > p.maxSymbols → buildReverse p E = raise .capSymbols) ∧
    (E ≠ [] → E.length ≤ p.maxSymbols → (∃ e ∈ E, e.2.length > p.maxCodeLen) →
      buildReverse p E = raise .capCodeLen) ∧
    (E ≠ [] → E.length ≤ p.maxSymbols → (∀ e ∈ E, e.2.length ≤ p.maxCodeLen) → ¬(E.map (·.1)).Nodup →
      buildReverse p E = raise .dupKey) ∧
    (E ≠ [] → E.length ≤ p.maxSymbols → (∀ e ∈ E, e.2.length ≤ p.maxCodeLen) → (E.map (·.1)).Nodup →
      ¬(E.map (·.2)).Nodup → buildReverse p E = raise .notInjective) ∧
    (E ≠ [] → E.length ≤ p.maxSymbols → (∀ e ∈ E, e.2.length ≤ p.maxCodeLen) → (E.map (·.1)).Nodup →
      (E.map (·.2)).Nodup → (∃ a ∈ E, ∃ b ∈ E, a.2 <+: b.2 ∧ a.2 ≠ b.2) →
      buildReverse p E = raise .notPrefixFree) ∧
    (E ≠ [] → E.length ≤ p.maxSymbols → (∀ e ∈ E, e.2.length ≤ p.maxCodeLen) → (E.map (·.1)).Nodup →
      (E.map (·.2)).Nodup → ¬(∃ a ∈ E, ∃ b ∈ E, a.2 <+: b.2 ∧ a.2 ≠ b.2) →
      buildReverse p E = .ok (E.map fun e => (e.2, e.1)))

/-! ## Packing -/

/-- 45_bit_packer.md R241: the padding byte of a payload; and its size (R244, the spec's inference). -/
def Obligations.PackSizeAndPadding : Prop :=
  ∀ bits : Bits, (pack bits).length = 1 + (bits.length + 7) / 8 ∧
    ∃ pad rest, pack bits = pad :: rest ∧ pad.toNat = (8 - bits.length % 8) % 8 ∧ pad.toNat ≤ 7

/-- 45_bit_packer.md R247: Unpack inverts Pack. -/
def Obligations.UnpackOfPack : Prop := ∀ bits : Bits, unpack (pack bits) = .ok bits

/-- 45_bit_packer.md R245, R246, 30_encoding.md R115: the three checks of Unpack in order; without an error, bit j of
what it returns is bit 7 - (j mod 8) of packed byte j div 8, for every j below the bit count less the padding, and the
filler is dropped whatever its value. -/
def Obligations.UnpackChecksAndBits : Prop :=
  unpack [] = raise .noPadding ∧
  ∀ (pad : Byte) (packed : List Byte),
    (7 < pad.toNat → unpack (pad :: packed) = raise .padRange) ∧
    (pad.toNat ≤ 7 → 8 * packed.length < pad.toNat → unpack (pad :: packed) = raise .padExceeds) ∧
    (pad.toNat ≤ 7 → pad.toNat ≤ 8 * packed.length →
      ∃ bits, unpack (pad :: packed) = .ok bits ∧ bits.length = 8 * packed.length - pad.toNat ∧
        ∀ j, j < bits.length → bits[j]? = packed[j / 8]?.map fun b => b.getLsbD (7 - j % 8))

/-! ## The container -/

/-- 46_container.md R268, 30_encoding.md R114: ParseTable inverts SerializeTable for every table of scalar keys and
non-empty codes. -/
def Obligations.ParseOfSerialize : Prop :=
  ∀ codes : Codes, (∀ e ∈ codes, isScalar e.1 ∧ e.2 ≠ []) → parseTable (serializeTable codes) = .ok codes

/-- 30_encoding.md R114: the table text of a list of entries is unique: whatever ParseTable accepts is what
SerializeTable writes for the entries it returns. -/
def Obligations.ParsedTextIsCanonical : Prop :=
  ∀ (X : List Byte) (E : Codes), parseTable X = .ok E →
    serializeTable E = X ∧ ∀ e ∈ E, isScalar e.1 ∧ e.2 ≠ []

/-- 46_container.md R262, R268: SplitContainer inverts Frame, and the header is the length, big-endian. -/
def Obligations.SplitOfFrame : Prop :=
  ∀ text payload : List Byte, text.length < 2 ^ 32 →
    splitContainer (frame text payload) = .ok (text, payload) ∧
    ∃ b0 b1 b2 b3, frame text payload = b0 :: b1 :: b2 :: b3 :: (text ++ payload) ∧
      b0.toNat * 2 ^ 24 + b1.toNat * 2 ^ 16 + b2.toNat * 2 ^ 8 + b3.toNat = text.length

/-- 46_container.md R264: the two checks of SplitContainer in order, and the two regions. -/
def Obligations.SplitContainerChecksAndRegions : Prop :=
  (∀ C : List Byte, C.length < 4 → splitContainer C = raise .shortHeader) ∧
  ∀ (b0 b1 b2 b3 : Byte) (rest : List Byte) (N : Nat),
    N = b0.toNat * 2 ^ 24 + b1.toNat * 2 ^ 16 + b2.toNat * 2 ^ 8 + b3.toNat →
    (rest.length < N → splitContainer (b0 :: b1 :: b2 :: b3 :: rest) = raise .tableLen) ∧
    (N ≤ rest.length →
      splitContainer (b0 :: b1 :: b2 :: b3 :: rest) =
        .ok (((b0 :: b1 :: b2 :: b3 :: rest).drop 4).take N, (b0 :: b1 :: b2 :: b3 :: rest).drop (4 + N)))

/-! ## The symbol decoder -/

/-- 47_symbol_decoder.md R296: the tree walker computes the same function for every table that passes BuildReverse. -/
def Obligations.TreeWalkerAgrees : Prop :=
  ∀ (p : Params) (E : Codes) (rev : RevTable) (S : Bits), buildReverse p E = .ok rev →
    walkSymbols p S rev = decodeSymbols p S rev

/-- 47_symbol_decoder.md R295: decoding inverts the concatenation of codes, up to the output capacity. -/
def Obligations.DecodeOfConcatenatedCodes : Prop :=
  ∀ (p : Params) (codes : Codes) (rev : RevTable) (syms : List Symbol) (bits : Bits),
    buildReverse p codes = .ok rev → (∀ e ∈ codes, e.2 ≠ []) → concatCodes codes syms = .ok bits →
    decodeSymbols p bits rev =
      if (utf8EncodeAll syms).length ≤ p.outBytes then .ok (utf8EncodeAll syms) else raise .capOutput

/-- 47_symbol_decoder.md R291: a table made from k >= 2 symbols is complete, so no bit stream raises BAD_CODE. -/
def Obligations.CompleteTableNeverRaisesBadCode : Prop :=
  ∀ (p : Params) (freq : Freq) (codes : Codes) (S : Bits), 2 ≤ freq.length → codesOf freq = .ok codes →
    decodeSymbols p S (invert codes) ≠ raise .badCode

/-- 47_symbol_decoder.md R294: DECOMPRESS of a container whose payload is exactly [0x00] and whose table is accepted
succeeds with OUT_LEN = 0; COMPRESS never produces such a blob. -/
def Obligations.EmptyStreamDecodesToNothing : Prop :=
  (∀ (s : State) (text : List Byte) (E : Codes) (rev : RevTable),
    s.engine = .busy → s.rst = false → s.curOp = .decompress → s.inputLength ≤ s.params.inBytes →
    text.length < 2 ^ 32 → s.inputBytes = frame text [0x00#8] →
    parseTable text = .ok E → buildReverse s.params E = .ok rev →
    ∃ t, engineTurn s = .next t ∧ t.outLen = 0#32 ∧ t.errReg = 0#32 ∧ t.statusErr = false ∧ t.statusDone = true) ∧
  (∀ (p : Params) (T blob text payload : List Byte), p.Legal → compressText p T = .ok blob →
    splitContainer blob = .ok (text, payload) → payload ≠ [0x00#8])

/-- 46_container.md R266: entries are accepted in any order, and the order has no effect on decoding. -/
def Obligations.EntryOrderHasNoEffect : Prop :=
  ∀ (p : Params) (E E' : Codes) (payload : List Byte), E.Perm E' → (∀ e ∈ E, isScalar e.1 ∧ e.2 ≠ []) →
    (serializeTable E).length < 2 ^ 32 →
    parseTable (serializeTable E') = .ok E' ∧
    decompressBlob p (frame (serializeTable E) payload) = decompressBlob p (frame (serializeTable E') payload)

/-! ## The bus -/

/-- 20_memory.md R72 to R75: a host read or write raises BusError exactly when it touches an unmapped byte or breaks its
region's width and alignment rule; BusError is a fault of the host's step, which has no next state. Every permitted
access completes. -/
def Obligations.BusErrorExactlyWhenNotPermitted : Prop :=
  ∀ (s : State) (a v : Word) (n : Nat),
    (hostStep (.read a n) s = .fault (.busError a n) ↔ ¬Permitted s.params a n) ∧
    (hostStep (.write a n v) s = .fault (.busError a n) ↔ ¬Permitted s.params a n) ∧
    (Permitted s.params a n →
      (∃ t, hostStep (.read a n) s = .next t) ∧ ∃ t, hostStep (.write a n v) s = .next t)

/-- 10_state.md R21 to R37, R49: what each CSR reads, and that the read changes nothing; writes to ID and to the four
capacities are ignored (R22, R33 to R36). The capacities are constants: no step of the machine changes them. -/
def Obligations.CsrReadValues : Prop :=
  ∀ s : State,
    memRead 0x000#32 4 s = some (0x48554631#32, s) ∧
    (∃ v, memRead 0x004#32 4 s = some (v, s) ∧ v.toNat = s.ie.toNat) ∧
    memRead 0x008#32 4 s = some (0x00000000#32, s) ∧
    (∃ v, memRead 0x00C#32 4 s = some (v, s) ∧ v.toNat = s.busy.toNat + 2 * s.statusDone.toNat +
      4 * s.statusErr.toNat + 8 * s.statusOvr.toNat + 16 * s.statusWlock.toNat) ∧
    memRead 0x010#32 4 s = some (s.errReg, s) ∧ memRead 0x014#32 4 s = some (s.inLen, s) ∧
    memRead 0x018#32 4 s = some (s.outLen, s) ∧
    memRead 0x01C#32 4 s = some (BitVec.ofNat 32 s.params.inBytes, s) ∧
    memRead 0x020#32 4 s = some (BitVec.ofNat 32 s.params.outBytes, s) ∧
    memRead 0x024#32 4 s = some (BitVec.ofNat 32 s.params.maxSymbols, s) ∧
    memRead 0x028#32 4 s = some (BitVec.ofNat 32 s.params.maxCodeLen, s) ∧
    (∀ a : Word, a.toNat % 4 = 0 → 0x02C ≤ a.toNat → a.toNat ≤ 0xFFC → memRead a 4 s = some (0#32, s)) ∧
    (∀ a v : Word, a ∈ [0x000#32, 0x01C#32, 0x020#32, 0x024#32, 0x028#32] → memWrite a 4 v s = .next s) ∧
    ∀ t : State, step s = .next t → t.params = s.params

/-- 10_state.md R22 to R37: what a write to each CSR other than CMD does, and that nothing else changes. -/
def Obligations.CsrWriteEffects : Prop :=
  ∀ (s : State) (v : Word),
    memWrite 0x004#32 4 v s = .next { s with ie := v.getLsbD 0 } ∧
    memWrite 0x00C#32 4 v s = .next { s with
      statusDone := s.statusDone && !v.getLsbD 1, statusOvr := s.statusOvr && !v.getLsbD 3,
      statusWlock := s.statusWlock && !v.getLsbD 4 } ∧
    (s.engine = .idle → memWrite 0x014#32 4 v s = .next { s with inLen := v }) ∧
    (s.engine = .busy → memWrite 0x014#32 4 v s = .next { s with statusWlock := true }) ∧
    memWrite 0x000#32 4 v s = .next s ∧
    ∀ a : Word, a.toNat % 4 = 0 → (a.toNat = 0x010 ∨ 0x018 ≤ a.toNat) → a.toNat ≤ 0xFFC →
      memWrite a 4 v s = .next s

/-- 20_memory.md R74, R76 to R78: in the IN window, an access that breaks the width, alignment or bounds rule is
BusError; a read returns the stored bytes in every engine state, in little-endian lanes; a write while IDLE stores byte
k of the value at offset k, leaves every other byte of IN_MEM and everything else unchanged, and a read of the same
bytes gives the value back; a write while BUSY is ignored as a whole and sets WLOCK. -/
def Obligations.InWindowAccesses : Prop :=
  ∀ (s : State) (a v : Word) (n : Nat), 0x40000000 ≤ a.toNat → a.toNat < 0x80000000 →
    (¬((n = 1 ∨ n = 2 ∨ n = 4) ∧ a.toNat % n = 0 ∧ a.toNat + n ≤ 0x40000000 + s.params.inBytes) →
      memRead a n s = none ∧ memWrite a n v s = .fault (.busError a n)) ∧
    ((n = 1 ∨ n = 2 ∨ n = 4) → a.toNat % n = 0 → a.toNat + n ≤ 0x40000000 + s.params.inBytes →
      (∃ r, memRead a n s = some (r, s) ∧ r.toNat < 2 ^ (8 * n) ∧
        ∀ k, k < n → r.extractLsb' (8 * k) 8 = s.inByte (a.toNat - 0x40000000 + k)) ∧
      (s.engine = .idle →
        ∃ t, memWrite a n v s = .next t ∧ t = { s with inMem := t.inMem } ∧
          (∀ k, k < n → t.inByte (a.toNat - 0x40000000 + k) = v.extractLsb' (8 * k) 8) ∧
          (∀ i, i < a.toNat - 0x40000000 ∨ a.toNat - 0x40000000 + n ≤ i → t.inByte i = s.inByte i) ∧
          ∃ r, memRead a n t = some (r, t) ∧ r.toNat = v.toNat % 2 ^ (8 * n)) ∧
      (s.engine = .busy → memWrite a n v s = .next { s with statusWlock := true }))

/-- 20_memory.md R75, 10_state.md R39: a write in the OUT window is ignored and sets no flag; a read while IDLE returns
the stored bytes in little-endian lanes; a read while BUSY returns any value, a fresh draw for each read. -/
def Obligations.OutWindowAccesses : Prop :=
  ∀ (s : State) (a v : Word) (n : Nat), Permitted s.params a n → s.params.Legal → 0x80000000 ≤ a.toNat →
    memWrite a n v s = .next s ∧
    (s.engine = .idle → ∃ r, memRead a n s = some (r, s) ∧
      ∀ k, k < n → r.extractLsb' (8 * k) 8 = s.outByte (a.toNat - 0x80000000 + k)) ∧
    (s.engine = .busy → ∃ r, memRead a n s = some (r, { s with draws := s.draws + 1 }) ∧
      ∀ k, k < n → r.extractLsb' (8 * k) 8 = Config.freeOutByte s.draws (a.toNat - 0x80000000 + k))

/-- 20_memory.md R79, 10_state.md R49: no read has a side effect on the block; only the model's own draw counter can
move. -/
def Obligations.ReadsHaveNoSideEffect : Prop :=
  ∀ (s t : State) (a v : Word) (n : Nat), memRead a n s = some (v, t) →
    t = { s with draws := t.draws } ∧ s.draws ≤ t.draws

/-! ## The whole machine -/

/-- 10_state.md R43: irq is STATUS.DONE AND CTRL.IE, a level with no state of its own, 0 at reset. With it
(60_exceptions.md R318, R321): acknowledging lowers it and leaves ERR and STATUS.ERR; accepting COMPRESS or DECOMPRESS
lowers it. Setting IE while DONE is set raises it at once (70_reset_and_hazards.md R358, the spec's inference). -/
def Obligations.InterruptLevel : Prop :=
  State.reset.irq = false ∧
  ∀ s : State,
    (s.irq = true ↔ s.statusDone = true ∧ s.ie = true) ∧
    (∃ t, memWrite 0x00C#32 4 0x00000002#32 s = .next t ∧ t.irq = false ∧ t.errReg = s.errReg ∧
      t.statusErr = s.statusErr) ∧
    (s.statusDone = true → ∃ t, memWrite 0x004#32 4 0x00000001#32 s = .next t ∧ t.irq = true) ∧
    (s.engine = .idle →
      (∃ t, exec .compress s = .next t ∧ t.irq = false) ∧ ∃ t, exec .decompress s = .next t ∧ t.irq = false)

/-- 10_state.md R21, R48, 70_reset_and_hazards.md R350, R351: the state after reset. Each byte of the two memories is an
any-value, the one of the draw the state names (log entries 4 to 6). -/
def Obligations.ResetState : Prop :=
  let s := State.reset
  s.engine = .idle ∧ s.irq = false ∧ s.busy = false ∧ s.rst = false ∧
  memRead 0x000#32 4 s = some (0x48554631#32, s) ∧
  (∀ a : Word, a.toNat % 4 = 0 → 0x004 ≤ a.toNat → a.toNat ≤ 0x018 → memRead a 4 s = some (0#32, s)) ∧
  ∀ k, s.inByte k = Config.freeInByte s.inDraw k ∧ s.outByte k = Config.freeOutByte s.outDraw k

/-- 70_reset_and_hazards.md R350, R351: asserting rst abandons a running command, reports nothing and raises no
interrupt; while it is asserted a host access gets no response and changes nothing; when it is deasserted every CSR is
at its reset value and both memories are drawn afresh. -/
def Obligations.ResetAbandonsTheCommand : Prop :=
  ∀ s : State,
    (∃ t, takeInput (.rst true) s = .next t ∧ t.engine = .idle ∧ t.irq = false ∧ t.errReg = 0#32 ∧ t.rst = true) ∧
    (s.rst = true → ∀ op, takeInput (.host op) s = .next { s with response := .silent }) ∧
    (s.rst = true → ∃ t, takeInput (.rst false) s = .next t ∧ t.rst = false ∧ t.engine = .idle ∧ t.irq = false ∧
      t.statusWord = 0#32 ∧ t.ctrlWord = 0#32 ∧ t.errReg = 0#32 ∧ t.inLen = 0#32 ∧ t.outLen = 0#32 ∧
      t.params = s.params ∧ t.inputs = s.inputs ∧
      ∀ k, t.inByte k = Config.freeInByte s.draws k ∧ t.outByte k = Config.freeOutByte s.draws k)

/-- The invariant holds right after reset. -/
def Obligations.InvariantAtReset : Prop := State.reset.Inv

/-- Every step keeps the invariant. -/
def Obligations.StepKeepsTheInvariant : Prop := ∀ s t : State, s.Inv → step s = .next t → t.Inv

/-- 20_memory.md R85, 10_state.md R31, R38: while BUSY, no step but a reset changes IN_LEN or a byte of IN_MEM. -/
def Obligations.InputIsFrozenWhileBusy : Prop :=
  ∀ s t : State, s.engine = .busy → (∀ rest, s.inputs ≠ .rst true :: rest) → s.rst = false → step s = .next t →
    t.inLen = s.inLen ∧ ∀ k, t.inByte k = s.inByte k

/-- 10_state.md R41, 60_exceptions.md R328: nothing but an accepted command word takes the engine from IDLE to
BUSY. -/
def Obligations.OnlyAcceptanceStartsTheEngine : Prop :=
  ∀ s t : State, s.engine = .idle → step s = .next t → t.engine = .busy →
    s.rst = false ∧ ∃ w rest, s.inputs = .host (.write cmdAddr 4 w) :: rest ∧
      ((w = 1#32 ∧ t.curOp = .compress) ∨ (w = 2#32 ∧ t.curOp = .decompress))

/-- 70_reset_and_hazards.md R360: an accepted command completes after finitely many steps, in the absence of reset,
whatever permitted reads and writes the host issues meanwhile. -/
def Obligations.AcceptedCommandCompletes : Prop :=
  ∀ s : State, s.engine = .busy → s.rst = false → (∀ i ∈ s.inputs, QuietInput s.params i) →
    ∃ k t, k ≤ s.inputs.length + 1 ∧ Host.Core.run Sys2Proof.core k s = .next t ∧
      t.engine = .idle ∧ t.statusDone = true

/-- 70_reset_and_hazards.md R360, 30_encoding.md R119: under the fairness of the engine's completion step the WAIT loop
ends, with DONE set and everything after it still to come (log entry 13 says where its polls fall). -/
def Obligations.WaitLoopEnds : Prop :=
  ∀ (s : State) (polls : Nat) (rest : List Input), s.engine = .busy → s.rst = false → s.statusDone = false →
    s.inputs = .host (.wait polls) :: rest →
    ∃ k t, k ≤ polls + 2 ∧ Host.Core.run Sys2Proof.core k s = .next t ∧
      t.inputs = rest ∧ t.engine = .idle ∧ t.statusDone = true

/-- 30_encoding.md R119: COPYOUT copies OUT[0 .. OUT_LEN) to IN[0 .. OUT_LEN) and writes IN_LEN. -/
def Obligations.CopyOutCopiesTheOutput : Prop :=
  ∀ (s : State) (rest : List Input), s.engine = .idle → s.rst = false → s.params.Legal →
    s.outLen.toNat ≤ s.params.outBytes → s.outLen.toNat ≤ s.params.inBytes →
    s.inputs = .host .copyOut :: rest →
    ∃ k t, Host.Core.run Sys2Proof.core k s = .next t ∧ t.inputs = rest ∧ t.inLen = s.outLen ∧
      (∀ i, i < s.outLen.toNat → t.inByte i = s.outByte i) ∧
      (∀ i, s.outLen.toNat ≤ i → t.inByte i = s.inByte i) ∧ ∀ i, t.outByte i = s.outByte i
end

