-- ==== Sys2Proof/Laws/State.lean ====
section
/-! SUPPORT. One lemma per field per update of the state, each true by unfolding, so that no later proof unfolds a record
update. -/

namespace Sys2Proof.Machine

variable (s : State)

/-! ## Acceptance (40_commands.md R145) -/

@[simp] theorem State.accept_params (op : Op) : (s.accept op).params = s.params := rfl
@[simp] theorem State.accept_ie (op : Op) : (s.accept op).ie = s.ie := rfl
@[simp] theorem State.accept_statusDone (op : Op) : (s.accept op).statusDone = false := rfl
@[simp] theorem State.accept_statusErr (op : Op) : (s.accept op).statusErr = false := rfl
@[simp] theorem State.accept_statusOvr (op : Op) : (s.accept op).statusOvr = s.statusOvr := rfl
@[simp] theorem State.accept_statusWlock (op : Op) : (s.accept op).statusWlock = s.statusWlock := rfl
@[simp] theorem State.accept_errReg (op : Op) : (s.accept op).errReg = 0#32 := rfl
@[simp] theorem State.accept_inLen (op : Op) : (s.accept op).inLen = s.inLen := rfl
@[simp] theorem State.accept_outLen (op : Op) : (s.accept op).outLen = 0#32 := rfl
@[simp] theorem State.accept_engine (op : Op) : (s.accept op).engine = .busy := rfl
@[simp] theorem State.accept_curOp (op : Op) : (s.accept op).curOp = op := rfl
@[simp] theorem State.accept_inMem (op : Op) : (s.accept op).inMem = s.inMem := rfl
@[simp] theorem State.accept_outMem (op : Op) : (s.accept op).outMem = s.outMem := rfl
@[simp] theorem State.accept_work (op : Op) : (s.accept op).work = Work.empty := rfl
@[simp] theorem State.accept_rst (op : Op) : (s.accept op).rst = s.rst := rfl
@[simp] theorem State.accept_inputs (op : Op) : (s.accept op).inputs = s.inputs := rfl
@[simp] theorem State.accept_response (op : Op) : (s.accept op).response = s.response := rfl
@[simp] theorem State.accept_inDraw (op : Op) : (s.accept op).inDraw = s.inDraw := rfl
@[simp] theorem State.accept_outDraw (op : Op) : (s.accept op).outDraw = s.outDraw := rfl
@[simp] theorem State.accept_draws (op : Op) : (s.accept op).draws = s.draws := rfl

/-! ## Recording an error (60_exceptions.md R312) -/

@[simp] theorem State.recordError_params (e : Err) : (s.recordError e).params = s.params := rfl
@[simp] theorem State.recordError_ie (e : Err) : (s.recordError e).ie = s.ie := rfl
@[simp] theorem State.recordError_statusDone (e : Err) : (s.recordError e).statusDone = true := rfl
@[simp] theorem State.recordError_statusErr (e : Err) : (s.recordError e).statusErr = true := rfl
@[simp] theorem State.recordError_statusOvr (e : Err) : (s.recordError e).statusOvr = s.statusOvr := rfl
@[simp] theorem State.recordError_statusWlock (e : Err) : (s.recordError e).statusWlock = s.statusWlock := rfl
@[simp] theorem State.recordError_errReg (e : Err) : (s.recordError e).errReg = e.word := rfl
@[simp] theorem State.recordError_inLen (e : Err) : (s.recordError e).inLen = s.inLen := rfl
@[simp] theorem State.recordError_outLen (e : Err) : (s.recordError e).outLen = 0#32 := rfl
@[simp] theorem State.recordError_engine (e : Err) : (s.recordError e).engine = s.engine := rfl
@[simp] theorem State.recordError_curOp (e : Err) : (s.recordError e).curOp = s.curOp := rfl
@[simp] theorem State.recordError_inMem (e : Err) : (s.recordError e).inMem = s.inMem := rfl
@[simp] theorem State.recordError_outMem (e : Err) : (s.recordError e).outMem = [] := rfl
@[simp] theorem State.recordError_work (e : Err) : (s.recordError e).work = s.work := rfl
@[simp] theorem State.recordError_rst (e : Err) : (s.recordError e).rst = s.rst := rfl
@[simp] theorem State.recordError_inputs (e : Err) : (s.recordError e).inputs = s.inputs := rfl
@[simp] theorem State.recordError_response (e : Err) : (s.recordError e).response = s.response := rfl
@[simp] theorem State.recordError_inDraw (e : Err) : (s.recordError e).inDraw = s.inDraw := rfl
@[simp] theorem State.recordError_outDraw (e : Err) : (s.recordError e).outDraw = s.draws := rfl
@[simp] theorem State.recordError_draws (e : Err) : (s.recordError e).draws = s.draws + 1 := rfl

/-! ## Recording an output (10_state.md R47) -/

@[simp] theorem State.recordOutput_params (out : List Byte) : (s.recordOutput out).params = s.params := rfl
@[simp] theorem State.recordOutput_ie (out : List Byte) : (s.recordOutput out).ie = s.ie := rfl
@[simp] theorem State.recordOutput_statusDone (out : List Byte) : (s.recordOutput out).statusDone = true := rfl
@[simp] theorem State.recordOutput_statusErr (out : List Byte) : (s.recordOutput out).statusErr = false := rfl
@[simp] theorem State.recordOutput_statusOvr (out : List Byte) : (s.recordOutput out).statusOvr = s.statusOvr := rfl
@[simp] theorem State.recordOutput_statusWlock (out : List Byte) : (s.recordOutput out).statusWlock = s.statusWlock := rfl
@[simp] theorem State.recordOutput_errReg (out : List Byte) : (s.recordOutput out).errReg = 0#32 := rfl
@[simp] theorem State.recordOutput_inLen (out : List Byte) : (s.recordOutput out).inLen = s.inLen := rfl
@[simp] theorem State.recordOutput_outLen (out : List Byte) : (s.recordOutput out).outLen = BitVec.ofNat 32 out.length := rfl
@[simp] theorem State.recordOutput_engine (out : List Byte) : (s.recordOutput out).engine = s.engine := rfl
@[simp] theorem State.recordOutput_curOp (out : List Byte) : (s.recordOutput out).curOp = s.curOp := rfl
@[simp] theorem State.recordOutput_inMem (out : List Byte) : (s.recordOutput out).inMem = s.inMem := rfl
@[simp] theorem State.recordOutput_outMem (out : List Byte) : (s.recordOutput out).outMem = Memory.ofBytes 0 out := rfl
@[simp] theorem State.recordOutput_work (out : List Byte) : (s.recordOutput out).work = s.work := rfl
@[simp] theorem State.recordOutput_rst (out : List Byte) : (s.recordOutput out).rst = s.rst := rfl
@[simp] theorem State.recordOutput_inputs (out : List Byte) : (s.recordOutput out).inputs = s.inputs := rfl
@[simp] theorem State.recordOutput_response (out : List Byte) : (s.recordOutput out).response = s.response := rfl
@[simp] theorem State.recordOutput_inDraw (out : List Byte) : (s.recordOutput out).inDraw = s.inDraw := rfl
@[simp] theorem State.recordOutput_outDraw (out : List Byte) : (s.recordOutput out).outDraw = s.draws := rfl
@[simp] theorem State.recordOutput_draws (out : List Byte) : (s.recordOutput out).draws = s.draws + 1 := rfl

/-! ## The end of a command (10_state.md R47) -/

@[simp] theorem State.retire_params : (s.retire).params = s.params := rfl
@[simp] theorem State.retire_ie : (s.retire).ie = s.ie := rfl
@[simp] theorem State.retire_statusDone : (s.retire).statusDone = s.statusDone := rfl
@[simp] theorem State.retire_statusErr : (s.retire).statusErr = s.statusErr := rfl
@[simp] theorem State.retire_statusOvr : (s.retire).statusOvr = s.statusOvr := rfl
@[simp] theorem State.retire_statusWlock : (s.retire).statusWlock = s.statusWlock := rfl
@[simp] theorem State.retire_errReg : (s.retire).errReg = s.errReg := rfl
@[simp] theorem State.retire_inLen : (s.retire).inLen = s.inLen := rfl
@[simp] theorem State.retire_outLen : (s.retire).outLen = s.outLen := rfl
@[simp] theorem State.retire_engine : (s.retire).engine = .idle := rfl
@[simp] theorem State.retire_curOp : (s.retire).curOp = s.curOp := rfl
@[simp] theorem State.retire_inMem : (s.retire).inMem = s.inMem := rfl
@[simp] theorem State.retire_outMem : (s.retire).outMem = s.outMem := rfl
@[simp] theorem State.retire_work : (s.retire).work = Config.freeWork s.draws := rfl
@[simp] theorem State.retire_rst : (s.retire).rst = s.rst := rfl
@[simp] theorem State.retire_inputs : (s.retire).inputs = s.inputs := rfl
@[simp] theorem State.retire_response : (s.retire).response = s.response := rfl
@[simp] theorem State.retire_inDraw : (s.retire).inDraw = s.inDraw := rfl
@[simp] theorem State.retire_outDraw : (s.retire).outDraw = s.outDraw := rfl
@[simp] theorem State.retire_draws : (s.retire).draws = s.draws + 1 := rfl

/-! ## Reset (70_reset_and_hazards.md R350) -/

@[simp] theorem State.resetBlock_params : (s.resetBlock).params = s.params := rfl
@[simp] theorem State.resetBlock_ie : (s.resetBlock).ie = false := rfl
@[simp] theorem State.resetBlock_statusDone : (s.resetBlock).statusDone = false := rfl
@[simp] theorem State.resetBlock_statusErr : (s.resetBlock).statusErr = false := rfl
@[simp] theorem State.resetBlock_statusOvr : (s.resetBlock).statusOvr = false := rfl
@[simp] theorem State.resetBlock_statusWlock : (s.resetBlock).statusWlock = false := rfl
@[simp] theorem State.resetBlock_errReg : (s.resetBlock).errReg = 0#32 := rfl
@[simp] theorem State.resetBlock_inLen : (s.resetBlock).inLen = 0#32 := rfl
@[simp] theorem State.resetBlock_outLen : (s.resetBlock).outLen = 0#32 := rfl
@[simp] theorem State.resetBlock_engine : (s.resetBlock).engine = .idle := rfl
@[simp] theorem State.resetBlock_curOp : (s.resetBlock).curOp = .compress := rfl
@[simp] theorem State.resetBlock_inMem : (s.resetBlock).inMem = [] := rfl
@[simp] theorem State.resetBlock_outMem : (s.resetBlock).outMem = [] := rfl
@[simp] theorem State.resetBlock_work : (s.resetBlock).work = Work.empty := rfl
@[simp] theorem State.resetBlock_rst : (s.resetBlock).rst = s.rst := rfl
@[simp] theorem State.resetBlock_inputs : (s.resetBlock).inputs = s.inputs := rfl
@[simp] theorem State.resetBlock_response : (s.resetBlock).response = .silent := rfl
@[simp] theorem State.resetBlock_inDraw : (s.resetBlock).inDraw = s.draws := rfl
@[simp] theorem State.resetBlock_outDraw : (s.resetBlock).outDraw = s.draws := rfl
@[simp] theorem State.resetBlock_draws : (s.resetBlock).draws = s.draws + 1 := rfl

/-! ## Storing into IN_MEM (20_memory.md R77) -/

@[simp] theorem State.storeIn_params (off : Nat) (bs : List Byte) : (s.storeIn off bs).params = s.params := rfl
@[simp] theorem State.storeIn_ie (off : Nat) (bs : List Byte) : (s.storeIn off bs).ie = s.ie := rfl
@[simp] theorem State.storeIn_statusDone (off : Nat) (bs : List Byte) : (s.storeIn off bs).statusDone = s.statusDone := rfl
@[simp] theorem State.storeIn_statusErr (off : Nat) (bs : List Byte) : (s.storeIn off bs).statusErr = s.statusErr := rfl
@[simp] theorem State.storeIn_statusOvr (off : Nat) (bs : List Byte) : (s.storeIn off bs).statusOvr = s.statusOvr := rfl
@[simp] theorem State.storeIn_statusWlock (off : Nat) (bs : List Byte) : (s.storeIn off bs).statusWlock = s.statusWlock := rfl
@[simp] theorem State.storeIn_errReg (off : Nat) (bs : List Byte) : (s.storeIn off bs).errReg = s.errReg := rfl
@[simp] theorem State.storeIn_inLen (off : Nat) (bs : List Byte) : (s.storeIn off bs).inLen = s.inLen := rfl
@[simp] theorem State.storeIn_outLen (off : Nat) (bs : List Byte) : (s.storeIn off bs).outLen = s.outLen := rfl
@[simp] theorem State.storeIn_engine (off : Nat) (bs : List Byte) : (s.storeIn off bs).engine = s.engine := rfl
@[simp] theorem State.storeIn_curOp (off : Nat) (bs : List Byte) : (s.storeIn off bs).curOp = s.curOp := rfl
@[simp] theorem State.storeIn_inMem (off : Nat) (bs : List Byte) : (s.storeIn off bs).inMem = Memory.writeBytes s.inMem off bs := rfl
@[simp] theorem State.storeIn_outMem (off : Nat) (bs : List Byte) : (s.storeIn off bs).outMem = s.outMem := rfl
@[simp] theorem State.storeIn_work (off : Nat) (bs : List Byte) : (s.storeIn off bs).work = s.work := rfl
@[simp] theorem State.storeIn_rst (off : Nat) (bs : List Byte) : (s.storeIn off bs).rst = s.rst := rfl
@[simp] theorem State.storeIn_inputs (off : Nat) (bs : List Byte) : (s.storeIn off bs).inputs = s.inputs := rfl
@[simp] theorem State.storeIn_response (off : Nat) (bs : List Byte) : (s.storeIn off bs).response = s.response := rfl
@[simp] theorem State.storeIn_inDraw (off : Nat) (bs : List Byte) : (s.storeIn off bs).inDraw = s.inDraw := rfl
@[simp] theorem State.storeIn_outDraw (off : Nat) (bs : List Byte) : (s.storeIn off bs).outDraw = s.outDraw := rfl
@[simp] theorem State.storeIn_draws (off : Nat) (bs : List Byte) : (s.storeIn off bs).draws = s.draws := rfl

/-! ## A write to STATUS (10_state.md R25 to R29) -/

@[simp] theorem State.writeStatus_params (v : Word) : (s.writeStatus v).params = s.params := rfl
@[simp] theorem State.writeStatus_ie (v : Word) : (s.writeStatus v).ie = s.ie := rfl
@[simp] theorem State.writeStatus_statusDone (v : Word) : (s.writeStatus v).statusDone = (s.statusDone && !v.getLsbD 1) := rfl
@[simp] theorem State.writeStatus_statusErr (v : Word) : (s.writeStatus v).statusErr = s.statusErr := rfl
@[simp] theorem State.writeStatus_statusOvr (v : Word) : (s.writeStatus v).statusOvr = (s.statusOvr && !v.getLsbD 3) := rfl
@[simp] theorem State.writeStatus_statusWlock (v : Word) : (s.writeStatus v).statusWlock = (s.statusWlock && !v.getLsbD 4) := rfl
@[simp] theorem State.writeStatus_errReg (v : Word) : (s.writeStatus v).errReg = s.errReg := rfl
@[simp] theorem State.writeStatus_inLen (v : Word) : (s.writeStatus v).inLen = s.inLen := rfl
@[simp] theorem State.writeStatus_outLen (v : Word) : (s.writeStatus v).outLen = s.outLen := rfl
@[simp] theorem State.writeStatus_engine (v : Word) : (s.writeStatus v).engine = s.engine := rfl
@[simp] theorem State.writeStatus_curOp (v : Word) : (s.writeStatus v).curOp = s.curOp := rfl
@[simp] theorem State.writeStatus_inMem (v : Word) : (s.writeStatus v).inMem = s.inMem := rfl
@[simp] theorem State.writeStatus_outMem (v : Word) : (s.writeStatus v).outMem = s.outMem := rfl
@[simp] theorem State.writeStatus_work (v : Word) : (s.writeStatus v).work = s.work := rfl
@[simp] theorem State.writeStatus_rst (v : Word) : (s.writeStatus v).rst = s.rst := rfl
@[simp] theorem State.writeStatus_inputs (v : Word) : (s.writeStatus v).inputs = s.inputs := rfl
@[simp] theorem State.writeStatus_response (v : Word) : (s.writeStatus v).response = s.response := rfl
@[simp] theorem State.writeStatus_inDraw (v : Word) : (s.writeStatus v).inDraw = s.inDraw := rfl
@[simp] theorem State.writeStatus_outDraw (v : Word) : (s.writeStatus v).outDraw = s.outDraw := rfl
@[simp] theorem State.writeStatus_draws (v : Word) : (s.writeStatus v).draws = s.draws := rfl

/-! ## OVR is set (10_state.md R28) -/

@[simp] theorem State.setOvr_params : (s.setOvr).params = s.params := rfl
@[simp] theorem State.setOvr_ie : (s.setOvr).ie = s.ie := rfl
@[simp] theorem State.setOvr_statusDone : (s.setOvr).statusDone = s.statusDone := rfl
@[simp] theorem State.setOvr_statusErr : (s.setOvr).statusErr = s.statusErr := rfl
@[simp] theorem State.setOvr_statusOvr : (s.setOvr).statusOvr = true := rfl
@[simp] theorem State.setOvr_statusWlock : (s.setOvr).statusWlock = s.statusWlock := rfl
@[simp] theorem State.setOvr_errReg : (s.setOvr).errReg = s.errReg := rfl
@[simp] theorem State.setOvr_inLen : (s.setOvr).inLen = s.inLen := rfl
@[simp] theorem State.setOvr_outLen : (s.setOvr).outLen = s.outLen := rfl
@[simp] theorem State.setOvr_engine : (s.setOvr).engine = s.engine := rfl
@[simp] theorem State.setOvr_curOp : (s.setOvr).curOp = s.curOp := rfl
@[simp] theorem State.setOvr_inMem : (s.setOvr).inMem = s.inMem := rfl
@[simp] theorem State.setOvr_outMem : (s.setOvr).outMem = s.outMem := rfl
@[simp] theorem State.setOvr_work : (s.setOvr).work = s.work := rfl
@[simp] theorem State.setOvr_rst : (s.setOvr).rst = s.rst := rfl
@[simp] theorem State.setOvr_inputs : (s.setOvr).inputs = s.inputs := rfl
@[simp] theorem State.setOvr_response : (s.setOvr).response = s.response := rfl
@[simp] theorem State.setOvr_inDraw : (s.setOvr).inDraw = s.inDraw := rfl
@[simp] theorem State.setOvr_outDraw : (s.setOvr).outDraw = s.outDraw := rfl
@[simp] theorem State.setOvr_draws : (s.setOvr).draws = s.draws := rfl

/-! ## WLOCK is set (10_state.md R29) -/

@[simp] theorem State.setWlock_params : (s.setWlock).params = s.params := rfl
@[simp] theorem State.setWlock_ie : (s.setWlock).ie = s.ie := rfl
@[simp] theorem State.setWlock_statusDone : (s.setWlock).statusDone = s.statusDone := rfl
@[simp] theorem State.setWlock_statusErr : (s.setWlock).statusErr = s.statusErr := rfl
@[simp] theorem State.setWlock_statusOvr : (s.setWlock).statusOvr = s.statusOvr := rfl
@[simp] theorem State.setWlock_statusWlock : (s.setWlock).statusWlock = true := rfl
@[simp] theorem State.setWlock_errReg : (s.setWlock).errReg = s.errReg := rfl
@[simp] theorem State.setWlock_inLen : (s.setWlock).inLen = s.inLen := rfl
@[simp] theorem State.setWlock_outLen : (s.setWlock).outLen = s.outLen := rfl
@[simp] theorem State.setWlock_engine : (s.setWlock).engine = s.engine := rfl
@[simp] theorem State.setWlock_curOp : (s.setWlock).curOp = s.curOp := rfl
@[simp] theorem State.setWlock_inMem : (s.setWlock).inMem = s.inMem := rfl
@[simp] theorem State.setWlock_outMem : (s.setWlock).outMem = s.outMem := rfl
@[simp] theorem State.setWlock_work : (s.setWlock).work = s.work := rfl
@[simp] theorem State.setWlock_rst : (s.setWlock).rst = s.rst := rfl
@[simp] theorem State.setWlock_inputs : (s.setWlock).inputs = s.inputs := rfl
@[simp] theorem State.setWlock_response : (s.setWlock).response = s.response := rfl
@[simp] theorem State.setWlock_inDraw : (s.setWlock).inDraw = s.inDraw := rfl
@[simp] theorem State.setWlock_outDraw : (s.setWlock).outDraw = s.outDraw := rfl
@[simp] theorem State.setWlock_draws : (s.setWlock).draws = s.draws := rfl

/-! ## A write to CTRL (10_state.md R23) -/

@[simp] theorem State.writeCtrl_params (v : Word) : (s.writeCtrl v).params = s.params := rfl
@[simp] theorem State.writeCtrl_ie (v : Word) : (s.writeCtrl v).ie = v.getLsbD 0 := rfl
@[simp] theorem State.writeCtrl_statusDone (v : Word) : (s.writeCtrl v).statusDone = s.statusDone := rfl
@[simp] theorem State.writeCtrl_statusErr (v : Word) : (s.writeCtrl v).statusErr = s.statusErr := rfl
@[simp] theorem State.writeCtrl_statusOvr (v : Word) : (s.writeCtrl v).statusOvr = s.statusOvr := rfl
@[simp] theorem State.writeCtrl_statusWlock (v : Word) : (s.writeCtrl v).statusWlock = s.statusWlock := rfl
@[simp] theorem State.writeCtrl_errReg (v : Word) : (s.writeCtrl v).errReg = s.errReg := rfl
@[simp] theorem State.writeCtrl_inLen (v : Word) : (s.writeCtrl v).inLen = s.inLen := rfl
@[simp] theorem State.writeCtrl_outLen (v : Word) : (s.writeCtrl v).outLen = s.outLen := rfl
@[simp] theorem State.writeCtrl_engine (v : Word) : (s.writeCtrl v).engine = s.engine := rfl
@[simp] theorem State.writeCtrl_curOp (v : Word) : (s.writeCtrl v).curOp = s.curOp := rfl
@[simp] theorem State.writeCtrl_inMem (v : Word) : (s.writeCtrl v).inMem = s.inMem := rfl
@[simp] theorem State.writeCtrl_outMem (v : Word) : (s.writeCtrl v).outMem = s.outMem := rfl
@[simp] theorem State.writeCtrl_work (v : Word) : (s.writeCtrl v).work = s.work := rfl
@[simp] theorem State.writeCtrl_rst (v : Word) : (s.writeCtrl v).rst = s.rst := rfl
@[simp] theorem State.writeCtrl_inputs (v : Word) : (s.writeCtrl v).inputs = s.inputs := rfl
@[simp] theorem State.writeCtrl_response (v : Word) : (s.writeCtrl v).response = s.response := rfl
@[simp] theorem State.writeCtrl_inDraw (v : Word) : (s.writeCtrl v).inDraw = s.inDraw := rfl
@[simp] theorem State.writeCtrl_outDraw (v : Word) : (s.writeCtrl v).outDraw = s.outDraw := rfl
@[simp] theorem State.writeCtrl_draws (v : Word) : (s.writeCtrl v).draws = s.draws := rfl

/-! ## A host step put back -/

@[simp] theorem State.push_params (op : HostOp) : (s.push op).params = s.params := rfl
@[simp] theorem State.push_ie (op : HostOp) : (s.push op).ie = s.ie := rfl
@[simp] theorem State.push_statusDone (op : HostOp) : (s.push op).statusDone = s.statusDone := rfl
@[simp] theorem State.push_statusErr (op : HostOp) : (s.push op).statusErr = s.statusErr := rfl
@[simp] theorem State.push_statusOvr (op : HostOp) : (s.push op).statusOvr = s.statusOvr := rfl
@[simp] theorem State.push_statusWlock (op : HostOp) : (s.push op).statusWlock = s.statusWlock := rfl
@[simp] theorem State.push_errReg (op : HostOp) : (s.push op).errReg = s.errReg := rfl
@[simp] theorem State.push_inLen (op : HostOp) : (s.push op).inLen = s.inLen := rfl
@[simp] theorem State.push_outLen (op : HostOp) : (s.push op).outLen = s.outLen := rfl
@[simp] theorem State.push_engine (op : HostOp) : (s.push op).engine = s.engine := rfl
@[simp] theorem State.push_curOp (op : HostOp) : (s.push op).curOp = s.curOp := rfl
@[simp] theorem State.push_inMem (op : HostOp) : (s.push op).inMem = s.inMem := rfl
@[simp] theorem State.push_outMem (op : HostOp) : (s.push op).outMem = s.outMem := rfl
@[simp] theorem State.push_work (op : HostOp) : (s.push op).work = s.work := rfl
@[simp] theorem State.push_rst (op : HostOp) : (s.push op).rst = s.rst := rfl
@[simp] theorem State.push_inputs (op : HostOp) : (s.push op).inputs = .host op :: s.inputs := rfl
@[simp] theorem State.push_response (op : HostOp) : (s.push op).response = s.response := rfl
@[simp] theorem State.push_inDraw (op : HostOp) : (s.push op).inDraw = s.inDraw := rfl
@[simp] theorem State.push_outDraw (op : HostOp) : (s.push op).outDraw = s.outDraw := rfl
@[simp] theorem State.push_draws (op : HostOp) : (s.push op).draws = s.draws := rfl

/-! ## What an access got back -/

@[simp] theorem State.respond_params (r : Response) : (s.respond r).params = s.params := rfl
@[simp] theorem State.respond_ie (r : Response) : (s.respond r).ie = s.ie := rfl
@[simp] theorem State.respond_statusDone (r : Response) : (s.respond r).statusDone = s.statusDone := rfl
@[simp] theorem State.respond_statusErr (r : Response) : (s.respond r).statusErr = s.statusErr := rfl
@[simp] theorem State.respond_statusOvr (r : Response) : (s.respond r).statusOvr = s.statusOvr := rfl
@[simp] theorem State.respond_statusWlock (r : Response) : (s.respond r).statusWlock = s.statusWlock := rfl
@[simp] theorem State.respond_errReg (r : Response) : (s.respond r).errReg = s.errReg := rfl
@[simp] theorem State.respond_inLen (r : Response) : (s.respond r).inLen = s.inLen := rfl
@[simp] theorem State.respond_outLen (r : Response) : (s.respond r).outLen = s.outLen := rfl
@[simp] theorem State.respond_engine (r : Response) : (s.respond r).engine = s.engine := rfl
@[simp] theorem State.respond_curOp (r : Response) : (s.respond r).curOp = s.curOp := rfl
@[simp] theorem State.respond_inMem (r : Response) : (s.respond r).inMem = s.inMem := rfl
@[simp] theorem State.respond_outMem (r : Response) : (s.respond r).outMem = s.outMem := rfl
@[simp] theorem State.respond_work (r : Response) : (s.respond r).work = s.work := rfl
@[simp] theorem State.respond_rst (r : Response) : (s.respond r).rst = s.rst := rfl
@[simp] theorem State.respond_inputs (r : Response) : (s.respond r).inputs = s.inputs := rfl
@[simp] theorem State.respond_response (r : Response) : (s.respond r).response = r := rfl
@[simp] theorem State.respond_inDraw (r : Response) : (s.respond r).inDraw = s.inDraw := rfl
@[simp] theorem State.respond_outDraw (r : Response) : (s.respond r).outDraw = s.outDraw := rfl
@[simp] theorem State.respond_draws (r : Response) : (s.respond r).draws = s.draws := rfl

/-! ## Updates that look at ENG_STATE -/

@[simp] theorem State.outReadDone_params : (s.outReadDone).params = s.params := by
  unfold State.outReadDone; split <;> rfl
@[simp] theorem State.outReadDone_ie : (s.outReadDone).ie = s.ie := by
  unfold State.outReadDone; split <;> rfl
@[simp] theorem State.outReadDone_statusDone : (s.outReadDone).statusDone = s.statusDone := by
  unfold State.outReadDone; split <;> rfl
@[simp] theorem State.outReadDone_statusErr : (s.outReadDone).statusErr = s.statusErr := by
  unfold State.outReadDone; split <;> rfl
@[simp] theorem State.outReadDone_statusOvr : (s.outReadDone).statusOvr = s.statusOvr := by
  unfold State.outReadDone; split <;> rfl
@[simp] theorem State.outReadDone_statusWlock : (s.outReadDone).statusWlock = s.statusWlock := by
  unfold State.outReadDone; split <;> rfl
@[simp] theorem State.outReadDone_errReg : (s.outReadDone).errReg = s.errReg := by
  unfold State.outReadDone; split <;> rfl
@[simp] theorem State.outReadDone_inLen : (s.outReadDone).inLen = s.inLen := by
  unfold State.outReadDone; split <;> rfl
@[simp] theorem State.outReadDone_outLen : (s.outReadDone).outLen = s.outLen := by
  unfold State.outReadDone; split <;> rfl
@[simp] theorem State.outReadDone_engine : (s.outReadDone).engine = s.engine := by
  unfold State.outReadDone; split <;> rfl
@[simp] theorem State.outReadDone_curOp : (s.outReadDone).curOp = s.curOp := by
  unfold State.outReadDone; split <;> rfl
@[simp] theorem State.outReadDone_inMem : (s.outReadDone).inMem = s.inMem := by
  unfold State.outReadDone; split <;> rfl
@[simp] theorem State.outReadDone_outMem : (s.outReadDone).outMem = s.outMem := by
  unfold State.outReadDone; split <;> rfl
@[simp] theorem State.outReadDone_work : (s.outReadDone).work = s.work := by
  unfold State.outReadDone; split <;> rfl
@[simp] theorem State.outReadDone_rst : (s.outReadDone).rst = s.rst := by
  unfold State.outReadDone; split <;> rfl
@[simp] theorem State.outReadDone_inputs : (s.outReadDone).inputs = s.inputs := by
  unfold State.outReadDone; split <;> rfl
@[simp] theorem State.outReadDone_response : (s.outReadDone).response = s.response := by
  unfold State.outReadDone; split <;> rfl
@[simp] theorem State.outReadDone_inDraw : (s.outReadDone).inDraw = s.inDraw := by
  unfold State.outReadDone; split <;> rfl
@[simp] theorem State.outReadDone_outDraw : (s.outReadDone).outDraw = s.outDraw := by
  unfold State.outReadDone; split <;> rfl

@[simp] theorem State.writeInLen_params (v : Word) : (s.writeInLen v).params = s.params := by
  unfold State.writeInLen; split <;> rfl
@[simp] theorem State.writeInLen_ie (v : Word) : (s.writeInLen v).ie = s.ie := by
  unfold State.writeInLen; split <;> rfl
@[simp] theorem State.writeInLen_statusDone (v : Word) : (s.writeInLen v).statusDone = s.statusDone := by
  unfold State.writeInLen; split <;> rfl
@[simp] theorem State.writeInLen_statusErr (v : Word) : (s.writeInLen v).statusErr = s.statusErr := by
  unfold State.writeInLen; split <;> rfl
@[simp] theorem State.writeInLen_statusOvr (v : Word) : (s.writeInLen v).statusOvr = s.statusOvr := by
  unfold State.writeInLen; split <;> rfl
@[simp] theorem State.writeInLen_errReg (v : Word) : (s.writeInLen v).errReg = s.errReg := by
  unfold State.writeInLen; split <;> rfl
@[simp] theorem State.writeInLen_outLen (v : Word) : (s.writeInLen v).outLen = s.outLen := by
  unfold State.writeInLen; split <;> rfl
@[simp] theorem State.writeInLen_engine (v : Word) : (s.writeInLen v).engine = s.engine := by
  unfold State.writeInLen; split <;> rfl
@[simp] theorem State.writeInLen_curOp (v : Word) : (s.writeInLen v).curOp = s.curOp := by
  unfold State.writeInLen; split <;> rfl
@[simp] theorem State.writeInLen_inMem (v : Word) : (s.writeInLen v).inMem = s.inMem := by
  unfold State.writeInLen; split <;> rfl
@[simp] theorem State.writeInLen_outMem (v : Word) : (s.writeInLen v).outMem = s.outMem := by
  unfold State.writeInLen; split <;> rfl
@[simp] theorem State.writeInLen_work (v : Word) : (s.writeInLen v).work = s.work := by
  unfold State.writeInLen; split <;> rfl
@[simp] theorem State.writeInLen_rst (v : Word) : (s.writeInLen v).rst = s.rst := by
  unfold State.writeInLen; split <;> rfl
@[simp] theorem State.writeInLen_inputs (v : Word) : (s.writeInLen v).inputs = s.inputs := by
  unfold State.writeInLen; split <;> rfl
@[simp] theorem State.writeInLen_response (v : Word) : (s.writeInLen v).response = s.response := by
  unfold State.writeInLen; split <;> rfl
@[simp] theorem State.writeInLen_inDraw (v : Word) : (s.writeInLen v).inDraw = s.inDraw := by
  unfold State.writeInLen; split <;> rfl
@[simp] theorem State.writeInLen_outDraw (v : Word) : (s.writeInLen v).outDraw = s.outDraw := by
  unfold State.writeInLen; split <;> rfl
@[simp] theorem State.writeInLen_draws (v : Word) : (s.writeInLen v).draws = s.draws := by
  unfold State.writeInLen; split <;> rfl

@[simp] theorem State.writeInWindow_params (off n : Nat) (v : Word) : (s.writeInWindow off n v).params = s.params := by
  unfold State.writeInWindow; split <;> rfl
@[simp] theorem State.writeInWindow_ie (off n : Nat) (v : Word) : (s.writeInWindow off n v).ie = s.ie := by
  unfold State.writeInWindow; split <;> rfl
@[simp] theorem State.writeInWindow_statusDone (off n : Nat) (v : Word) : (s.writeInWindow off n v).statusDone = s.statusDone := by
  unfold State.writeInWindow; split <;> rfl
@[simp] theorem State.writeInWindow_statusErr (off n : Nat) (v : Word) : (s.writeInWindow off n v).statusErr = s.statusErr := by
  unfold State.writeInWindow; split <;> rfl
@[simp] theorem State.writeInWindow_statusOvr (off n : Nat) (v : Word) : (s.writeInWindow off n v).statusOvr = s.statusOvr := by
  unfold State.writeInWindow; split <;> rfl
@[simp] theorem State.writeInWindow_errReg (off n : Nat) (v : Word) : (s.writeInWindow off n v).errReg = s.errReg := by
  unfold State.writeInWindow; split <;> rfl
@[simp] theorem State.writeInWindow_inLen (off n : Nat) (v : Word) : (s.writeInWindow off n v).inLen = s.inLen := by
  unfold State.writeInWindow; split <;> rfl
@[simp] theorem State.writeInWindow_outLen (off n : Nat) (v : Word) : (s.writeInWindow off n v).outLen = s.outLen := by
  unfold State.writeInWindow; split <;> rfl
@[simp] theorem State.writeInWindow_engine (off n : Nat) (v : Word) : (s.writeInWindow off n v).engine = s.engine := by
  unfold State.writeInWindow; split <;> rfl
@[simp] theorem State.writeInWindow_curOp (off n : Nat) (v : Word) : (s.writeInWindow off n v).curOp = s.curOp := by
  unfold State.writeInWindow; split <;> rfl
@[simp] theorem State.writeInWindow_outMem (off n : Nat) (v : Word) : (s.writeInWindow off n v).outMem = s.outMem := by
  unfold State.writeInWindow; split <;> rfl
@[simp] theorem State.writeInWindow_work (off n : Nat) (v : Word) : (s.writeInWindow off n v).work = s.work := by
  unfold State.writeInWindow; split <;> rfl
@[simp] theorem State.writeInWindow_rst (off n : Nat) (v : Word) : (s.writeInWindow off n v).rst = s.rst := by
  unfold State.writeInWindow; split <;> rfl
@[simp] theorem State.writeInWindow_inputs (off n : Nat) (v : Word) : (s.writeInWindow off n v).inputs = s.inputs := by
  unfold State.writeInWindow; split <;> rfl
@[simp] theorem State.writeInWindow_response (off n : Nat) (v : Word) : (s.writeInWindow off n v).response = s.response := by
  unfold State.writeInWindow; split <;> rfl
@[simp] theorem State.writeInWindow_inDraw (off n : Nat) (v : Word) : (s.writeInWindow off n v).inDraw = s.inDraw := by
  unfold State.writeInWindow; split <;> rfl
@[simp] theorem State.writeInWindow_outDraw (off n : Nat) (v : Word) : (s.writeInWindow off n v).outDraw = s.outDraw := by
  unfold State.writeInWindow; split <;> rfl
@[simp] theorem State.writeInWindow_draws (off n : Nat) (v : Word) : (s.writeInWindow off n v).draws = s.draws := by
  unfold State.writeInWindow; split <;> rfl

end Sys2Proof.Machine
end

