-- ==== Sys2Proof/Laws/Memory.lean ====
section
/-! SUPPORT. The laws of the byte memories: a read after a write, and that every memory operation keeps the canonical
form. -/

namespace Sys2Proof.Machine

/-! ## Reading what was written -/

@[simp] theorem Memory.read_nil (a : Nat) : Memory.read [] a = none := rfl

theorem Memory.read_cons (x : Nat) (c : Byte) (m : Memory) (a : Nat) :
    Memory.read ((x, c) :: m) a = if a = x then some c else Memory.read m a := rfl

/-- A read of the offset written gives the byte written. -/
@[simp] theorem Memory.read_write_self (m : Memory) (a : Nat) (b : Byte) :
    Memory.read (Memory.write m a b) a = some b := by
  induction m with
  | nil => simp [Memory.write, Memory.read_cons]
  | cons e m ih =>
    obtain ⟨x, c⟩ := e
    unfold Memory.write
    split
    · simp [Memory.read_cons]
    · split
      · simp [Memory.read_cons]
      · rename_i h
        simp [Memory.read_cons, h, ih]

/-- A write leaves every other offset alone. -/
theorem Memory.read_write_of_ne (m : Memory) {a a' : Nat} (b : Byte) (h : a' ≠ a) :
    Memory.read (Memory.write m a b) a' = Memory.read m a' := by
  induction m with
  | nil => simp [Memory.write, Memory.read_cons, h]
  | cons e m ih =>
    obtain ⟨x, c⟩ := e
    unfold Memory.write
    split
    · simp [Memory.read_cons, h]
    · split
      · rename_i hax
        subst hax
        simp [Memory.read_cons, h]
      · simp [Memory.read_cons, ih]

/-- Bytes stored from `a` on leave every offset outside them alone. -/
theorem Memory.read_writeBytes_of_outside (bs : List Byte) :
    ∀ (m : Memory) (a i : Nat), i < a ∨ a + bs.length ≤ i →
      Memory.read (Memory.writeBytes m a bs) i = Memory.read m i := by
  induction bs with
  | nil => intro m a i _; rfl
  | cons b bs ih =>
    intro m a i h
    simp only [List.length_cons] at h
    rw [Memory.writeBytes, ih _ _ _ (by omega), Memory.read_write_of_ne _ _ (by omega)]

/-- Byte k of the bytes stored from `a` on reads back at `a + k`. -/
theorem Memory.read_writeBytes (bs : List Byte) :
    ∀ (m : Memory) (a k : Nat), (h : k < bs.length) →
      Memory.read (Memory.writeBytes m a bs) (a + k) = some bs[k] := by
  induction bs with
  | nil => intro m a k h; simp at h
  | cons b bs ih =>
    intro m a k h
    rw [Memory.writeBytes]
    cases k with
    | zero =>
      rw [Memory.read_writeBytes_of_outside _ _ _ _ (by omega)]
      simp
    | succ k =>
      have := ih (Memory.write m a b) (a + 1) k (by simpa using h)
      rw [show a + (k + 1) = a + 1 + k by omega, this]
      simp

theorem Memory.read_ofBytes_of_outside (bs : List Byte) :
    ∀ (a i : Nat), i < a ∨ a + bs.length ≤ i → Memory.read (Memory.ofBytes a bs) i = none := by
  induction bs with
  | nil => intro a i _; rfl
  | cons b bs ih =>
    intro a i h
    simp only [List.length_cons] at h
    rw [Memory.ofBytes, Memory.read_cons, if_neg (by omega), ih _ _ (by omega)]

theorem Memory.read_ofBytes (bs : List Byte) :
    ∀ (a k : Nat), (h : k < bs.length) → Memory.read (Memory.ofBytes a bs) (a + k) = some bs[k] := by
  induction bs with
  | nil => intro a k h; simp at h
  | cons b bs ih =>
    intro a k h
    rw [Memory.ofBytes, Memory.read_cons]
    cases k with
    | zero => simp
    | succ k =>
      rw [if_neg (by omega), show a + (k + 1) = a + 1 + k by omega, ih (a + 1) k (by simpa using h)]
      simp

/-! ## The canonical form -/

/-- The canonical form says that the offsets are strictly rising. -/
theorem Memory.wf_iff (m : Memory) : Memory.wf m = true ↔ m.Pairwise fun x y => x.1 < y.1 := by
  induction m with
  | nil => simp [Memory.wf]
  | cons e m ih =>
    cases m with
    | nil => simp [Memory.wf]
    | cons f m =>
      obtain ⟨a, x⟩ := e
      obtain ⟨b, y⟩ := f
      rw [Memory.wf, Bool.and_eq_true, ih, List.pairwise_cons (a := (a, x))]
      constructor
      · rintro ⟨h, hp⟩
        have hab : a < b := by simpa using h
        refine ⟨?_, hp⟩
        intro z hz
        rcases List.mem_cons.1 hz with rfl | hz
        · exact hab
        · exact Nat.lt_trans hab ((List.pairwise_cons.1 hp).1 z hz)
      · rintro ⟨h, hp⟩
        exact ⟨by simpa using h (b, y) List.mem_cons_self, hp⟩

/-- A listed cell of a memory after a write is the cell written or one of before. -/
theorem Memory.mem_write {m : Memory} {a : Nat} {b : Byte} {e : Host.Cell}
    (h : e ∈ Memory.write m a b) : e = (a, b) ∨ e ∈ m := by
  induction m with
  | nil => simpa [Memory.write] using h
  | cons x m ih =>
    obtain ⟨x, c⟩ := x
    unfold Memory.write at h
    split at h
    · simpa using h
    · split at h
      · rcases List.mem_cons.1 h with h | h
        · exact .inl h
        · exact .inr (List.mem_cons_of_mem _ h)
      · rcases List.mem_cons.1 h with h | h
        · exact .inr (h ▸ List.mem_cons_self)
        · exact (ih h).imp id (List.mem_cons_of_mem _)

/-- A write keeps the canonical form. -/
theorem Memory.wf_write {m : Memory} (a : Nat) (b : Byte) (h : Memory.wf m = true) :
    Memory.wf (Memory.write m a b) = true := by
  rw [Memory.wf_iff] at h ⊢
  induction m with
  | nil => simp [Memory.write]
  | cons e m ih =>
    obtain ⟨x, c⟩ := e
    have hx := List.pairwise_cons.1 h
    unfold Memory.write
    split
    · rename_i hax
      refine List.pairwise_cons.2 ⟨?_, h⟩
      intro z hz
      rcases List.mem_cons.1 hz with rfl | hz
      · exact hax
      · exact Nat.lt_trans hax (hx.1 z hz)
    · split
      · rename_i hax
        subst hax
        exact List.pairwise_cons.2 ⟨hx.1, hx.2⟩
      · refine List.pairwise_cons.2 ⟨?_, ih hx.2⟩
        intro z hz
        rcases Memory.mem_write hz with rfl | hz
        · simp only; omega
        · exact hx.1 z hz

/-- Storing bytes keeps the canonical form. -/
theorem Memory.wf_writeBytes (bs : List Byte) :
    ∀ {m : Memory} (a : Nat), Memory.wf m = true → Memory.wf (Memory.writeBytes m a bs) = true := by
  induction bs with
  | nil => intro m a h; exact h
  | cons b bs ih => intro m a h; exact ih (a + 1) (Memory.wf_write a b h)

@[simp] theorem Memory.below_nil (n : Nat) : Memory.below n [] = true := rfl

theorem Memory.below_iff (n : Nat) (m : Memory) : Memory.below n m = true ↔ ∀ e ∈ m, e.1 < n := by
  simp [Memory.below]

/-- A write below the bound keeps every listed offset below it. -/
theorem Memory.below_write {m : Memory} {n a : Nat} (b : Byte) (ha : a < n) (h : Memory.below n m = true) :
    Memory.below n (Memory.write m a b) = true := by
  rw [Memory.below_iff] at h ⊢
  intro e he
  rcases Memory.mem_write he with rfl | he
  · exact ha
  · exact h e he

theorem Memory.below_writeBytes (bs : List Byte) :
    ∀ {m : Memory} {n : Nat} (a : Nat), a + bs.length ≤ n → Memory.below n m = true →
      Memory.below n (Memory.writeBytes m a bs) = true := by
  induction bs with
  | nil => intro m n a _ h; exact h
  | cons b bs ih =>
    intro m n a ha h
    simp only [List.length_cons] at ha
    exact ih (a + 1) (by omega) (Memory.below_write b (by omega) h)

/-- The offsets of a memory made of bytes. -/
theorem Memory.map_fst_ofBytes (bs : List Byte) :
    ∀ a : Nat, (Memory.ofBytes a bs).map (·.1) = List.range' a bs.length := by
  induction bs with
  | nil => intro a; rfl
  | cons b bs ih => intro a; simp [Memory.ofBytes, ih, List.range'_succ]

/-- A memory made of bytes is in canonical form. -/
theorem Memory.wf_ofBytes (a : Nat) (bs : List Byte) : Memory.wf (Memory.ofBytes a bs) = true := by
  have h : ((Memory.ofBytes a bs).map (·.1)).Pairwise (· < ·) := by
    rw [Memory.map_fst_ofBytes]
    exact List.pairwise_lt_range'
  rw [Memory.wf_iff]
  exact List.pairwise_map.1 h

theorem Memory.below_ofBytes {a n : Nat} (bs : List Byte) (h : a + bs.length ≤ n) :
    Memory.below n (Memory.ofBytes a bs) = true := by
  rw [Memory.below_iff]
  intro e he
  have : e.1 ∈ (Memory.ofBytes a bs).map (·.1) := List.mem_map_of_mem he
  rw [Memory.map_fst_ofBytes, List.mem_range'_1] at this
  omega

/-! ## The bytes of the two memories -/

/-- The stored bytes of IN_MEM after a store: byte k of what was stored. -/
theorem State.inByte_storeIn (s : State) (off k : Nat) (bs : List Byte) (h : k < bs.length) :
    (s.storeIn off bs).inByte (off + k) = bs[k] := by
  simp [State.inByte, Memory.read_writeBytes bs s.inMem off k h]

/-- A store leaves every byte outside it alone. -/
theorem State.inByte_storeIn_of_outside (s : State) (off i : Nat) (bs : List Byte)
    (h : i < off ∨ off + bs.length ≤ i) : (s.storeIn off bs).inByte i = s.inByte i := by
  simp [State.inByte, Memory.read_writeBytes_of_outside bs s.inMem off i h]

/-- Byte k of a recorded output stands at OUT[k]. -/
theorem State.outByte_recordOutput (s : State) (out : List Byte) (k : Nat) (h : k < out.length) :
    (s.recordOutput out).outByte k = out[k] := by
  have := Memory.read_ofBytes out 0 k h
  simp only [Nat.zero_add] at this
  simp [State.outByte, this]

/-- Every byte past a recorded output is a fresh draw. -/
theorem State.outByte_recordOutput_of_le (s : State) (out : List Byte) (k : Nat) (h : out.length ≤ k) :
    (s.recordOutput out).outByte k = Config.freeOutByte s.draws k := by
  simp [State.outByte, Memory.read_ofBytes_of_outside out 0 k (by omega)]

/-- After an error every byte of OUT_MEM is a fresh draw. -/
theorem State.outByte_recordError (s : State) (e : Err) (k : Nat) :
    (s.recordError e).outByte k = Config.freeOutByte s.draws k := by
  simp [State.outByte]

end Sys2Proof.Machine
end

