-- ==== Sys2Proof/Laws/Machine.lean ====
section
/-! SUPPORT. What each shared operation of the machine can do, said once: the command words, the bus, the engine's turn,
reset. Later proofs cite these and unfold none of them. -/

namespace Sys2Proof.Machine

/-! ## Command words -/

theorem whenIdle_of_idle (act : State → State) {s : State} (h : s.engine = .idle) :
    whenIdle act s = .next (act s) := by
  simp [whenIdle, h]

theorem whenIdle_of_busy (act : State → State) {s : State} (h : s.engine = .busy) :
    whenIdle act s = .next s.setOvr := by
  simp [whenIdle, h]

/-- While BUSY every command word sets OVR and does nothing else (40_commands.md R140). -/
theorem exec_of_busy (i : Instr) {s : State} (h : s.engine = .busy) : exec i s = .next s.setOvr := by
  cases i
  case nop => exact whenIdle_of_busy (fun s => s) h
  all_goals exact whenIdle_of_busy _ h

/-- What a command word does while IDLE. -/
def Instr.idleEffect : Instr → State → State
  | .nop => fun s => s
  | .compress => State.accept .compress
  | .decompress => State.accept .decompress
  | .illegalOp3 _ => State.recordError .reservedOp
  | .illegalOp47 _ _ => State.recordError .reservedOp
  | .illegalOp8F _ _ => State.recordError .reservedOp
  | .illegalBits _ _ => State.recordError .reservedBits

theorem exec_of_idle (i : Instr) {s : State} (h : s.engine = .idle) :
    exec i s = .next (Instr.idleEffect i s) := by
  cases i
  case nop => exact whenIdle_of_idle (fun s => s) h
  all_goals exact whenIdle_of_idle _ h

/-- Everything a command word can do. -/
theorem exec_cases {i : Instr} {s t : State} (h : exec i s = .next t) :
    (s.engine = .busy ∧ t = s.setOvr) ∨
    (s.engine = .idle ∧ ((i = .nop ∧ t = s) ∨ (i = .compress ∧ t = s.accept .compress) ∨
      (i = .decompress ∧ t = s.accept .decompress) ∨ ∃ e, t = s.recordError e)) := by
  cases he : s.engine with
  | busy =>
    rw [exec_of_busy i he] at h
    exact .inl ⟨rfl, (Host.Outcome.next.inj h).symm⟩
  | idle =>
    rw [exec_of_idle i he] at h
    have ht := (Host.Outcome.next.inj h).symm
    refine .inr ⟨rfl, ?_⟩
    cases i <;> simp_all [Instr.idleEffect]
    all_goals exact ⟨_, rfl⟩

/-- A command word always has an effect: it never stops the machine. -/
theorem exec_next (i : Instr) (s : State) : ∃ t, exec i s = .next t := by
  cases he : s.engine with
  | busy => exact ⟨_, exec_of_busy i he⟩
  | idle => exact ⟨_, exec_of_idle i he⟩

/-! ## The address map -/

theorem csrEnd_eq : csrEnd = 0x1000 := rfl
theorem inBase_eq : inBase = 0x40000000 := rfl
theorem outBase_eq : outBase = 0x80000000 := rfl

theorem windowWidth_iff (n : Nat) : windowWidth n = true ↔ n = 1 ∨ n = 2 ∨ n = 4 := by
  simp [windowWidth, or_assoc]

/-- An access that touches a CSR is four bytes wide at an aligned address of the page. -/
theorem regionOf_csr {p : Params} {a : Word} {n : Nat} {r : Csr} (h : regionOf p a n = some (.csr r)) :
    n = 4 ∧ a.toNat % 4 = 0 ∧ a.toNat + 4 ≤ 0x1000 ∧ r = csrAt a.toNat := by
  unfold regionOf at h
  split_ifs at h with h1 h2 <;> cases h
  rw [csrEnd_eq] at h1
  obtain ⟨rfl, h2⟩ := h2
  exact ⟨rfl, h2, h1, rfl⟩

/-- An access in the IN window lies inside IN_MEM and is naturally aligned. -/
theorem regionOf_inWin {p : Params} {a : Word} {n off : Nat} (h : regionOf p a n = some (.inWin off)) :
    (n = 1 ∨ n = 2 ∨ n = 4) ∧ a.toNat % n = 0 ∧ a.toNat = 0x40000000 + off ∧ off + n ≤ p.inBytes := by
  unfold regionOf at h
  split_ifs at h <;> simp only [Option.some.injEq, Region.inWin.injEq, reduceCtorEq] at h
  rename_i hb hw
  obtain ⟨hw, hm⟩ := hw
  rw [inBase_eq] at hb h
  exact ⟨(windowWidth_iff n).1 hw, hm, by omega, by omega⟩

/-- An access in the OUT window lies inside OUT_MEM and is naturally aligned. -/
theorem regionOf_outWin {p : Params} {a : Word} {n off : Nat} (h : regionOf p a n = some (.outWin off)) :
    (n = 1 ∨ n = 2 ∨ n = 4) ∧ a.toNat % n = 0 ∧ a.toNat = 0x80000000 + off ∧ off + n ≤ p.outBytes := by
  unfold regionOf at h
  split_ifs at h <;> simp only [Option.some.injEq, Region.outWin.injEq, reduceCtorEq] at h
  rename_i hb hw
  obtain ⟨hw, hm⟩ := hw
  rw [outBase_eq] at hb h
  exact ⟨(windowWidth_iff n).1 hw, hm, by omega, by omega⟩

/-- The only address of CMD. -/
theorem csrAt_cmd {off : Nat} (h : csrAt off = .cmd) : off = 0x008 := by
  unfold csrAt at h
  split_ifs at h
  assumption

/-- CMD is touched by an aligned access of four bytes, whatever the capacities. -/
@[simp] theorem regionOf_cmdAddr (p : Params) : regionOf p cmdAddr 4 = some (.csr .cmd) := rfl

@[simp] theorem regionOf_statusAddr (p : Params) : regionOf p statusAddr 4 = some (.csr .status) := rfl

@[simp] theorem regionOf_inLenAddr (p : Params) : regionOf p inLenAddr 4 = some (.csr .inLen) := rfl

@[simp] theorem regionOf_outLenAddr (p : Params) : regionOf p outLenAddr 4 = some (.csr .outLen) := rfl

/-! ## Reads and writes -/

/-- A read changes nothing but the draw counter. -/
theorem memRead_state {a v : Word} {n : Nat} {s t : State} (h : memRead a n s = some (v, t)) :
    t = s ∨ (s.engine = .busy ∧ t = { s with draws := s.draws + 1 }) := by
  unfold memRead at h
  split at h
  · simp at h
  · exact .inl (by simp_all)
  · exact .inl (by simp_all)
  · simp only [Option.some.injEq, Prod.mk.injEq] at h
    rw [← h.2]
    unfold State.outReadDone
    split
    · rename_i hb
      exact .inr ⟨hb, rfl⟩
    · exact .inl rfl

/-- Everything a bus write can do. -/
theorem memWrite_cases {a v : Word} {n : Nat} {s t : State} (h : memWrite a n v s = .next t) :
    t = s ∨ t = s.writeCtrl v ∨ t = s.writeStatus v ∨ t = s.writeInLen v ∨
    (a = cmdAddr ∧ n = 4 ∧ exec (decode v) s = .next t) ∨
    ∃ off, regionOf s.params a n = some (.inWin off) ∧ t = s.writeInWindow off n v := by
  unfold memWrite at h
  split at h
  · simp at h
  · rename_i r hr
    obtain ⟨hn, -, -, hc⟩ := regionOf_csr hr
    cases r <;> simp only [csrWrite, Host.Outcome.next.injEq] at h
    case cmd =>
      have ha : a = cmdAddr := BitVec.eq_of_toNat_eq (csrAt_cmd hc.symm)
      exact .inr (.inr (.inr (.inr (.inl ⟨ha, hn, h⟩))))
    case ctrl => exact .inr (.inl h.symm)
    case status => exact .inr (.inr (.inl h.symm))
    case inLen => exact .inr (.inr (.inr (.inl h.symm)))
    all_goals exact .inl h.symm
  · rename_i off hr
    exact .inr (.inr (.inr (.inr (.inr ⟨off, hr, (Host.Outcome.next.inj h).symm⟩))))
  · exact .inl (Host.Outcome.next.inj h).symm

/-- A write of a word to CMD is that word's command (10_state.md R24, 40_commands.md R140). -/
theorem memWrite_cmd (w : Word) (s : State) : memWrite cmdAddr 4 w s = exec (decode w) s := by
  simp [memWrite, csrWrite]

/-- A permitted write never stops the machine. -/
theorem memWrite_next {a v : Word} {n : Nat} {s : State} (h : regionOf s.params a n ≠ none) :
    ∃ t, memWrite a n v s = .next t := by
  unfold memWrite
  split
  · contradiction
  · rename_i r _
    cases r <;> simp only [csrWrite] <;> first | exact exec_next _ _ | exact ⟨_, rfl⟩
  · exact ⟨_, rfl⟩
  · exact ⟨_, rfl⟩

/-- What a write to IN_LEN does, by the engine's state (10_state.md R31). -/
theorem State.writeInLen_cases (v : Word) (s : State) :
    (s.engine = .idle ∧ s.writeInLen v = { s with inLen := v }) ∨
    (s.engine = .busy ∧ s.writeInLen v = s.setWlock) := by
  cases h : s.engine <;> simp [State.writeInLen, h]

/-- What a write in the IN window does, by the engine's state (20_memory.md R74). -/
theorem State.writeInWindow_cases (off n : Nat) (v : Word) (s : State) :
    (s.engine = .idle ∧ s.writeInWindow off n v = s.storeIn off ((List.range n).map (laneOfValue v))) ∨
    (s.engine = .busy ∧ s.writeInWindow off n v = s.setWlock) := by
  cases h : s.engine <;> simp [State.writeInWindow, h]

/-! ## The engine -/

/-- Everything the engine's turn can do (10_state.md R47). -/
theorem engineTurn_cases {s t : State} (h : engineTurn s = .next t) :
    ((s.rst = true ∨ s.engine = .idle) ∧ t = s) ∨
    (s.rst = false ∧ s.engine = .busy ∧
      ((∃ out, s.commandResult = .ok out ∧ t = (s.recordOutput out).retire) ∨
        ∃ e, s.commandResult = raise e ∧ t = (s.recordError e).retire)) := by
  unfold engineTurn at h
  split at h
  · rename_i hr he
    refine .inr ⟨hr, he, ?_⟩
    unfold completion at h
    split at h
    · rename_i out ho
      exact .inl ⟨out, ho, (Host.Outcome.next.inj h).symm⟩
    · rename_i e ho
      exact .inr ⟨e, ho, (Host.Outcome.next.inj h).symm⟩
    · simp at h
  · rename_i he
    exact .inl ⟨.inr he, (Host.Outcome.next.inj h).symm⟩
  · rename_i hr
    exact .inl ⟨.inl hr, (Host.Outcome.next.inj h).symm⟩

/-- A BUSY engine that is not in reset completes. -/
theorem engineTurn_of_busy {s : State} (hr : s.rst = false) (he : s.engine = .busy) :
    engineTurn s = completion s := by
  simp [engineTurn, hr, he]

/-- The engine does nothing while IDLE. -/
theorem engineTurn_of_idle {s : State} (he : s.engine = .idle) : engineTurn s = .next s := by
  cases hr : s.rst <;> simp [engineTurn, hr, he]

theorem completion_of_ok {s : State} {out : List Byte} (h : s.commandResult = .ok out) :
    completion s = .next (s.recordOutput out).retire := by
  simp [completion, h]

theorem completion_of_raise {s : State} {e : Err} (h : s.commandResult = raise e) :
    completion s = .next (s.recordError e).retire := by
  simp [completion, h, raise]

/-- The command's result is that of its function on the input bytes, once IN_LEN is in range. -/
theorem State.commandResult_of_le {s : State} (h : s.inputLength ≤ s.params.inBytes) :
    s.commandResult = runOp s.params s.curOp s.inputBytes := by
  simp [State.commandResult, Nat.not_lt.2 h]

@[simp] theorem State.length_inputBytes (s : State) : s.inputBytes.length = s.inputLength := by
  simp [State.inputBytes]

/-! ## Reset and the step -/

/-- Everything driving rst can do (70_reset_and_hazards.md R350). -/
theorem State.driveRst_cases (level : Bool) (s : State) :
    ((level = true ∨ s.rst = true) ∧ s.driveRst level = { s.resetBlock with rst := level }) ∨
    (level = false ∧ s.rst = false ∧ s.driveRst level = s) := by
  cases level <;> cases h : s.rst <;> simp [State.driveRst, h]

/-- All that a host read can do when it completes: the read returns a value, and the host goes on with it. -/
theorem hostRead_cases {a : Word} {n : Nat} {k : Word → State → State} {s t : State} (h : hostRead a n k s = .next t) :
    ∃ v u, memRead a n s = some (v, u) ∧ t = k v (u.respond (.value v)) := by
  unfold hostRead at h
  split at h
  · cases h
  · rename_i v u hm
    exact ⟨v, u, hm, (Host.Outcome.next.inj h).symm⟩

/-- A step with nothing still to come is the engine's turn. -/
theorem step_of_nil {s : State} (h : s.inputs = []) : step s = engineTurn s := by
  simp [step, h]

/-- A step takes the first input still to come. -/
theorem step_of_cons {s : State} {i : Input} {rest : List Input} (h : s.inputs = i :: rest) :
    step s = takeInput i { s with inputs := rest } := by
  simp [step, h]

end Sys2Proof.Machine
end

