-- ==== Sys2Proof/Laws/PerInstr.lean ====
section
/-! SUPPORT. What is said of every instruction, one lemma per constructor. -/

namespace Sys2Proof.Laws.RowOfEncoding

/-- The word of a well-formed instruction has its row's match under its row's mask (spec/opcode_table.json). -/
def Statement (i : Instr) : Prop :=
  i.WellFormed → ∀ r ∈ opcodeTable, r.name = i.row → r.holds (encode i) = true

/-- A word made of two fields meets a row whose mask lies in the lower field when the lower field does. -/
theorem commandWord_and_low (rsvd : BitVec 28) (op m : BitVec 4) :
    commandWord rsvd op &&& (0#28 ++ m) = 0#28 ++ (op &&& m) := by
  rw [commandWord, BitVec.and_append]
  simp

theorem nop : Statement .nop := by unfold Statement; decide
theorem compress : Statement .compress := by unfold Statement; decide
theorem decompress : Statement .decompress := by unfold Statement; decide

theorem illegalOp3 (rsvd : BitVec 28) : Statement (.illegalOp3 rsvd) := by
  intro _ r hr hn
  have := commandWord_and_low rsvd 3#4 0xF#4
  simp only [opcodeTable, List.mem_cons, List.not_mem_nil, or_false] at hr
  rcases hr with rfl | rfl | rfl | rfl | rfl | rfl | rfl <;> simp_all [Instr.row, Row.holds, encode]

theorem illegalOp47 (rsvd : BitVec 28) (lo : BitVec 2) : Statement (.illegalOp47 rsvd lo) := by
  intro _ r hr hn
  have h := commandWord_and_low rsvd (1#2 ++ lo) 0xC#4
  have h4 : ∀ lo : BitVec 2, (1#2 ++ lo) &&& 0xC#4 = 4#4 := by decide
  rw [h4 lo] at h
  simp only [opcodeTable, List.mem_cons, List.not_mem_nil, or_false] at hr
  rcases hr with rfl | rfl | rfl | rfl | rfl | rfl | rfl <;> simp_all [Instr.row, Row.holds, encode]

theorem illegalOp8F (rsvd : BitVec 28) (lo : BitVec 3) : Statement (.illegalOp8F rsvd lo) := by
  intro _ r hr hn
  have h := commandWord_and_low rsvd (1#1 ++ lo) 0x8#4
  have h8 : ∀ lo : BitVec 3, (1#1 ++ lo) &&& 0x8#4 = 8#4 := by decide
  rw [h8 lo] at h
  simp only [opcodeTable, List.mem_cons, List.not_mem_nil, or_false] at hr
  rcases hr with rfl | rfl | rfl | rfl | rfl | rfl | rfl <;> simp_all [Instr.row, Row.holds, encode]

theorem illegalBits (rsvd : BitVec 28) (op : BitVec 2) : Statement (.illegalBits rsvd op) := by
  intro _ r hr hn
  simp only [opcodeTable, List.mem_cons, List.not_mem_nil, or_false] at hr
  rcases hr with rfl | rfl | rfl | rfl | rfl | rfl | rfl <;> simp_all [Instr.row, Row.holds, encode]

end Sys2Proof.Laws.RowOfEncoding
end

