-- ==== Sys2Proof/Laws/Result.lean ====
section
/-! SUPPORT. How results chain: the laws of sequencing, raising and checking. -/

namespace Sys2Proof.Machine

variable {α β : Type}

@[simp] theorem ok_bind (a : α) (f : α → Result β) : ((Except.ok a : Result α) >>= f) = f a := rfl

@[simp] theorem error_bind (h : Halt) (f : α → Result β) :
    ((Except.error h : Result α) >>= f) = Except.error h := rfl

@[simp] theorem raise_bind (e : Err) (f : α → Result β) : ((raise e : Result α) >>= f) = raise e := rfl

@[simp] theorem stuckAt_bind (w : Stuck) (f : α → Result β) : ((stuckAt w : Result α) >>= f) = stuckAt w := rfl

/-- A sequence returns a value exactly when its first part does and the second does on it. -/
theorem bind_eq_ok {x : Result α} {f : α → Result β} {b : β} :
    (x >>= f) = .ok b ↔ ∃ a, x = .ok a ∧ f a = .ok b := by
  cases x <;> simp

/-- A sequence ends without a value exactly when its first part does, or the second does on the first's value. -/
theorem bind_eq_error {x : Result α} {f : α → Result β} {h : Halt} :
    (x >>= f) = .error h ↔ x = .error h ∨ ∃ a, x = .ok a ∧ f a = .error h := by
  cases x <;> simp

@[simp] theorem raise_ne_ok (e : Err) (a : α) : (raise e : Result α) ≠ .ok a := nofun

@[simp] theorem stuckAt_ne_ok (w : Stuck) (a : α) : (stuckAt w : Result α) ≠ .ok a := nofun

@[simp] theorem raise_inj {e e' : Err} : (raise e : Result α) = raise e' ↔ e = e' := by
  simp [raise]

@[simp] theorem raiseIf_of_pos {c : Prop} [Decidable c] (e : Err) (h : c) : raiseIf c e = raise e := if_pos h

@[simp] theorem raiseIf_of_neg {c : Prop} [Decidable c] (e : Err) (h : ¬c) : raiseIf c e = .ok () := if_neg h

@[simp] theorem raiseIf_eq_ok {c : Prop} [Decidable c] {e : Err} {u : Unit} : raiseIf c e = .ok u ↔ ¬c := by
  by_cases h : c <;> simp [h]

@[simp] theorem raiseIf_eq_error {c : Prop} [Decidable c] {e : Err} {h : Halt} :
    raiseIf c e = .error h ↔ c ∧ h = .raise e := by
  by_cases hc : c <;> simp [hc, raise, eq_comm]

@[simp] theorem orStuck_some (w : Stuck) (a : α) : orStuck w (some a) = .ok a := rfl

@[simp] theorem orStuck_none (w : Stuck) : orStuck w (none : Option α) = stuckAt w := rfl

@[simp] theorem orRaise_some (e : Err) (a : α) : orRaise e (some a) = .ok a := rfl

@[simp] theorem orRaise_none (e : Err) : orRaise e (none : Option α) = raise e := rfl

@[simp] theorem orRaise_eq_ok {e : Err} {o : Option α} {a : α} : orRaise e o = .ok a ↔ o = some a := by
  cases o <;> simp

/-- What COMPRESS returned, stage by stage (40_commands.md R143). -/
theorem compressText_eq_ok {p : Params} {T blob : List Byte} (h : compressText p T = .ok blob) :
    T ≠ [] ∧ ∃ syms freq nodes root codes bits,
      scanAndCount p T = .ok (syms, freq) ∧ buildTree freq = .ok (nodes, root) ∧
      genCodes nodes root = .ok codes ∧ (∀ e ∈ codes, e.2.length ≤ p.maxCodeLen) ∧
      concatCodes codes syms = .ok bits ∧ blob = frame (serializeTable codes) (pack bits) ∧
      blob.length ≤ p.outBytes := by
  simp only [compressText, bind_eq_ok, raiseIf_eq_ok, checkCodeLen] at h
  obtain ⟨_, hT, ⟨syms, freq⟩, hs, ⟨nodes, root⟩, ht, codes, hc, _, hl, bits, hb, _, ho, hblob⟩ := h
  cases hblob
  refine ⟨by simpa using hT, syms, freq, nodes, root, codes, bits, hs, ht, hc, ?_, hb, rfl, by omega⟩
  intro e he
  by_contra hlt
  exact hl ⟨e, he, by omega⟩

/-- What DECOMPRESS returned, stage by stage (40_commands.md R144). -/
theorem decompressBlob_eq_ok {p : Params} {C out : List Byte} (h : decompressBlob p C = .ok out) :
    ∃ text payload entries rev bits,
      splitContainer C = .ok (text, payload) ∧ parseTable text = .ok entries ∧
      buildReverse p entries = .ok rev ∧ unpack payload = .ok bits ∧ decodeSymbols p bits rev = .ok out := by
  simp only [decompressBlob, bind_eq_ok] at h
  obtain ⟨⟨text, payload⟩, hs, entries, he, rev, hr, bits, hb, hd⟩ := h
  exact ⟨text, payload, entries, rev, bits, hs, he, hr, hb, hd⟩

end Sys2Proof.Machine
end

