-- ==== Sys2Proof/Tests/Slice0.lean ====
section
/-! SUPPORT. Tests from the spec's own words and vectors (30_encoding.md, 95_test_vectors.md), and for every statement
with hypotheses a witness that meets them. -/

namespace Sys2Proof.Tests

open Sys2Proof Sys2Proof.Machine

/-! ## Helpers -/

/-- An IDLE block with bytes at the start of IN_MEM and IN_LEN their number. -/
def idleWith (bytes : List Byte) : State :=
  { State.reset with inMem := Memory.ofBytes 0 bytes, inLen := BitVec.ofNat 32 bytes.length }

/-- The same, with a command in progress. -/
def busyWith (op : Op) (bytes : List Byte) : State := { idleWith bytes with engine := .busy, curOp := op }

/-- A look at the next state of an outcome, if there is one. -/
def look {α : Type} (o : Host.Outcome State Fault Refusal) (f : State → α) : Option α :=
  match o with
  | .next t => some (f t)
  | .fault _ => none
  | .refused _ => none

/-- "abacabad". -/
def aba : List Byte := [0x61#8, 0x62#8, 0x61#8, 0x63#8, 0x61#8, 0x62#8, 0x61#8, 0x64#8]

/-- The table text of V-SER-1. -/
def abaText : List Byte :=
  [0x7B#8, 0x22#8, 0x61#8, 0x22#8, 0x3A#8, 0x22#8, 0x30#8, 0x22#8, 0x2C#8] ++
  [0x22#8, 0x62#8, 0x22#8, 0x3A#8, 0x22#8, 0x31#8, 0x30#8, 0x22#8, 0x2C#8] ++
  [0x22#8, 0x63#8, 0x22#8, 0x3A#8, 0x22#8, 0x31#8, 0x31#8, 0x30#8, 0x22#8, 0x2C#8] ++
  [0x22#8, 0x64#8, 0x22#8, 0x3A#8, 0x22#8, 0x31#8, 0x31#8, 0x31#8, 0x22#8, 0x7D#8]

/-- BLOB_ABA, V-CMD-1. -/
def abaBlob : List Byte := [0x00#8, 0x00#8, 0x00#8, 0x26#8] ++ abaText ++ [0x02#8, 0x4C#8, 0x9C#8]

/-- The table of V-CODE-1. -/
def abaCodes : Codes :=
  [(0x61, [false]), (0x62, [true, false]), (0x63, [true, true, false]), (0x64, [true, true, true])]

/-- The counts of V-TXT-1. -/
def abaFreq : Freq := [(0x61, 4), (0x62, 2), (0x63, 1), (0x64, 1)]

/-- The bits of V-PACK-1. -/
def abaBits : Bits :=
  [false, true, false, false, true, true, false, false, true, false, false, true, true, true]

/-! ## WellFormed: the terms no word decodes to are refused -/

/-- RESERVED_BITS needs RSVD != 0 (30_encoding.md R102). -/
theorem test_wellFormed_refuses_zero_rsvd : ¬(Instr.illegalBits 0#28 1#2).WellFormed := by decide
/-- RESERVED_BITS needs OP below 3 (30_encoding.md R102). -/
theorem test_wellFormed_refuses_op3 : ¬(Instr.illegalBits 1#28 3#2).WellFormed := by decide

/-! ## Decoding: words written out from 30_encoding.md R100 to R102 -/

theorem test_decode_nop : decode 0b00000000000000000000000000000000#32 = .nop := by decide
theorem test_decode_compress : decode 0b00000000000000000000000000000001#32 = .compress := by decide
theorem test_decode_decompress : decode 0b00000000000000000000000000000010#32 = .decompress := by decide
/-- V-W-8: "the OP check comes first". -/
theorem test_decode_op3 : decode 0b00000000000000000000000000010011#32 = .illegalOp3 1#28 := by decide
theorem test_decode_op47 : decode 0b10000000000000000000000000000101#32 = .illegalOp47 0x8000000#28 1#2 := by decide
/-- V-W-5. -/
theorem test_decode_op8F : decode 0b00000000000000000000000000001111#32 = .illegalOp8F 0#28 7#3 := by decide
/-- V-W-6: "OP = NOP but bit 4 is set". -/
theorem test_decode_bits : decode 0b00000000000000000000000000010000#32 = .illegalBits 1#28 0#2 := by decide
/-- Three bytes are no command word (30_encoding.md R116). -/
theorem test_decodeBytes_short : decodeBytes [1#8, 0#8, 0#8] = .error .notFourBytes := by decide

/-! ## Command words (95_test_vectors.md section 2.11) -/

/-- R141's example: from STATUS = 2, NOP leaves STATUS = 2. -/
theorem test_nop_keeps_status :
    look (exec .nop { State.reset with statusDone := true }) State.statusWord = some 0x00000002#32 := by decide
/-- V-W-9 with NOP: dropped, OVR set. -/
theorem test_nop_busy : look (exec .nop (busyWith .compress aba)) State.statusWord = some 0x00000009#32 := by decide
/-- V-W-2. -/
theorem test_compress_accepted : look (exec .compress (idleWith aba)) State.statusWord = some 0x00000001#32 := by decide
/-- V-CMD-1. -/
theorem test_compress_blob :
    look (engineTurn (busyWith .compress aba)) (fun t => (t.errReg, t.outLen, t.statusWord, t.outputBytes 45)) =
      some (0#32, 45#32, 0x00000002#32, abaBlob) := by decide +kernel
/-- V-W-3: accepted, for DECOMPRESS. -/
theorem test_decompress_accepted :
    look (exec .decompress (idleWith abaBlob)) (fun t => (t.statusWord, t.curOp)) = some (1#32, .decompress) := by decide
/-- V-DEC-C-1. -/
theorem test_decompress_text :
    look (engineTurn (busyWith .decompress abaBlob)) (fun t => (t.errReg, t.outLen, t.statusWord, t.outputBytes 8)) =
      some (0#32, 8#32, 0x00000002#32, aba) := by decide +kernel
/-- V-W-4. -/
theorem test_illegal_op3 :
    look (exec (decode 0x00000003#32) (idleWith aba)) (fun t => (t.errReg, t.statusWord, t.outLen)) =
      some (0x00000106#32, 0x00000006#32, 0#32) := by decide
/-- R142's example: W32 CMD, 5. -/
theorem test_illegal_op47 :
    look (exec (decode 0x00000005#32) (idleWith aba)) (fun t => (t.errReg, t.statusWord, t.outLen)) =
      some (0x00000106#32, 0x00000006#32, 0#32) := by decide
/-- V-W-5. -/
theorem test_illegal_op8F :
    look (exec (decode 0x0000000F#32) (idleWith aba)) (fun t => (t.errReg, t.engine)) =
      some (0x00000106#32, .idle) := by decide
/-- V-W-7. -/
theorem test_illegal_bits :
    look (exec (decode 0x80000001#32) (idleWith aba)) (fun t => (t.errReg, t.statusWord)) =
      some (0x00000206#32, 0x00000006#32) := by decide

/-! ## The bus (95_test_vectors.md section 2.11) -/

/-- V-BUS-6. -/
theorem test_ctrl_mask : look (memWrite 0x004#32 4 0xFFFFFFFF#32 State.reset) State.ctrlWord = some 1#32 := by decide
/-- V-BUS-7. -/
theorem test_csr_halfword : (memRead 0x00C#32 2 State.reset).isNone = true := by decide
/-- V-BUS-9. -/
theorem test_in_misaligned : (memRead 0x40000002#32 4 State.reset).isNone = true := by decide
/-- V-BUS-10. -/
theorem test_in_lanes :
    (memRead 0x40000002#32 2 (idleWith [0x00#8, 0x00#8, 0x61#8, 0x63#8])).map (·.1) = some 0x6361#32 := by decide
/-- V-BUS-11. -/
theorem test_in_word_write :
    look (memWrite 0x40000000#32 4 0x26000000#32 State.reset) (·.inMem) =
      some [(0, 0x00#8), (1, 0x00#8), (2, 0x00#8), (3, 0x26#8)] := by decide
/-- V-BUS-14. -/
theorem test_in_write_busy :
    look (memWrite 0x40000000#32 1 0x55#32 (busyWith .compress aba)) (fun t => (t.inMem, t.statusWord)) =
      some (Memory.ofBytes 0 aba, 0x00000011#32) := by decide
/-- V-BUS-19. -/
theorem test_status_w1c :
    look (memWrite 0x00C#32 4 0x0000001F#32
      { State.reset with statusDone := true, statusErr := true, statusOvr := true, statusWlock := true })
      State.statusWord = some 0x00000004#32 := by decide

/-! ## The stages (95_test_vectors.md sections 2.1 to 2.9) -/

/-- V-TXT-16: the ill-formed byte comes first. -/
theorem test_scan_order :
    scanAndCount { Params.reference with maxSymbols := 2 } [0x61#8, 0x62#8, 0xFF#8, 0x63#8] = raise .illFormedUtf8 := by
  decide
/-- V-CODE-2: a leaf and an internal node tie. -/
theorem test_codes_tie :
    codesOf [(0x61, 2), (0x62, 3), (0x63, 1)] =
      .ok [(0x62, [false]), (0x63, [true, false]), (0x61, [true, true])] := by decide
/-- V-REV-6: DUP_KEY precedes NOT_INJECTIVE. -/
theorem test_reverse_order :
    buildReverse Params.reference [(0x61, [false]), (0x61, [false])] = raise .dupKey := by decide
/-- V-PAR-9: U+000A must be written with its short escape. -/
theorem test_parse_escape :
    parseTable [0x7B#8, 0x22#8, 0x5C#8, 0x75#8, 0x30#8, 0x30#8, 0x30#8, 0x61#8, 0x22#8, 0x3A#8, 0x22#8, 0x30#8, 0x22#8,
      0x7D#8] = raise .tableSyntax := by decide
/-- V-DEC-6: an incomplete table. -/
theorem test_decode_incomplete :
    decodeSymbols Params.reference [false, true, false, false] [([false], 0x61), ([true, false], 0x62)] =
      .ok [0x61#8, 0x62#8, 0x61#8] := by decide
/-- V-DEC-C-7: ERR = 0x00000A02. -/
theorem test_trailing_bits :
    look (engineTurn (busyWith .decompress (abaBlob.take 42 ++ [0x00#8, 0x4D#8]))) (·.errReg) =
      some 0x00000A02#32 := by decide +kernel

/-! ## Witnesses: the hypotheses of each statement are met -/

theorem witness_StepRunsTheDecodedCommand :
    let s := { State.reset with inputs := [.host (.write cmdAddr 4 0x00000001#32)] }
    s.rst = false ∧ s.inputs = .host (.write cmdAddr 4 0x00000001#32) :: [] := by decide

theorem witness_FetchedWordRunsAsDecoded : (32 : Nat) ≤ 32 := by decide

theorem witness_DecodeOfEncode :
    Instr.nop.WellFormed ∧ Instr.compress.WellFormed ∧ Instr.decompress.WellFormed ∧
    (Instr.illegalOp3 0#28).WellFormed ∧ (Instr.illegalOp47 0xFFFFFFF#28 3#2).WellFormed ∧
    (Instr.illegalOp8F 0#28 0#3).WellFormed ∧ (Instr.illegalBits 1#28 2#2).WellFormed := by decide

/-- One word for each case of the dispatch, the boundary values among them. -/
theorem witness_CommandDispatch :
    (busyWith .compress aba).engine = .busy ∧ (idleWith aba).engine = .idle ∧
    3 ≤ (0x00000003#32).toNat % 16 ∧ 3 ≤ (0xFFFFFFFF#32).toNat % 16 ∧
    ((0x00000010#32).toNat % 16 < 3 ∧ (0x00000010#32).toNat / 16 ≠ 0) ∧
    ((0xFFFFFFF2#32).toNat % 16 < 3 ∧ (0xFFFFFFF2#32).toNat / 16 ≠ 0) ∧
    (0x00000000#32).toNat = 0 ∧ (0x00000001#32).toNat = 1 ∧ (0x00000002#32).toNat = 2 := by decide

theorem witness_NopChangesNothing :
    State.reset.engine = .idle ∧ (busyWith .decompress abaBlob).engine = .busy := by decide

theorem witness_CodecCommandsAreAccepted : (idleWith []).engine = .idle ∧ (idleWith aba).engine = .idle := by decide

theorem witness_IllegalWordsAreRecorded :
    (idleWith aba).engine = .idle ∧
    (Instr.illegalOp3 0#28 = decode 0x00000003#32 ∧ 3 ≤ (0x00000003#32).toNat % 16) ∧
    (Instr.illegalOp47 0#28 0#2 = decode 0x00000004#32 ∧ 3 ≤ (0x00000004#32).toNat % 16) ∧
    (Instr.illegalOp8F 0xFFFFFFF#28 7#3 = decode 0xFFFFFFFF#32 ∧ 3 ≤ (0xFFFFFFFF#32).toNat % 16) ∧
    (Instr.illegalBits 1#28 0#2 = decode 0x00000010#32 ∧ (0x00000010#32).toNat / 16 ≠ 0) := by decide

theorem witness_CommandFrame :
    exec .nop (idleWith aba) = .next (idleWith aba) ∧
    exec (.illegalOp3 0#28) (idleWith aba) = .next ((idleWith aba).recordError .reservedOp) ∧
    exec .compress (busyWith .compress aba) = .next (busyWith .compress aba).setOvr ∧
    (idleWith aba).engine = .idle ∧ (busyWith .compress aba).engine = .busy := ⟨rfl, rfl, rfl, rfl, rfl⟩

/-- IDLE; IN_LEN just above and at P_IN_BYTES; a success and an error of a BUSY engine. -/
theorem witness_CompletionCommitsTheResult :
    (idleWith aba).rst = false ∧ (idleWith aba).params.Legal ∧ (idleWith aba).engine = .idle ∧
    ({ idleWith aba with inLen := 4097#32 } : State).inLen.toNat > (idleWith aba).params.inBytes ∧
    ({ idleWith aba with inLen := 4096#32 } : State).inLen.toNat ≤ (idleWith aba).params.inBytes ∧
    (busyWith .compress aba).curOp = .compress ∧ (busyWith .decompress abaBlob).curOp = .decompress ∧
    (busyWith .compress aba).engine = .busy ∧ (busyWith .compress aba).commandResult = .ok abaBlob ∧
    (busyWith .compress []).engine = .busy ∧ (busyWith .compress []).commandResult = raise .zeroLength := by
  decide +kernel

theorem witness_CompressWritesTheBlob :
    (idleWith aba).engine = .idle ∧ (idleWith aba).rst = false ∧ (idleWith aba).params.Legal ∧
    (idleWith aba).inputLength ≤ (idleWith aba).params.inBytes ∧
    compressText (idleWith aba).params (idleWith aba).inputBytes = .ok abaBlob := by decide +kernel

theorem witness_DecompressWritesTheText :
    (idleWith abaBlob).engine = .idle ∧ (idleWith abaBlob).rst = false ∧ (idleWith abaBlob).params.Legal ∧
    (idleWith abaBlob).inputLength ≤ (idleWith abaBlob).params.inBytes ∧
    decompressBlob (idleWith abaBlob).params (idleWith abaBlob).inputBytes = .ok aba := by decide +kernel

theorem witness_FailedCompletionRecordsTheError :
    (busyWith .compress []).engine = .busy ∧ (busyWith .compress []).rst = false ∧
    (busyWith .compress []).commandResult = raise .zeroLength := by decide

theorem witness_CompletionFrame :
    engineTurn (busyWith .compress []) = .next ((busyWith .compress []).recordError .zeroLength).retire ∧
    (busyWith .compress []).engine = .busy ∧ (busyWith .compress []).rst = false ∧
    (busyWith .compress []).params.Legal :=
  ⟨rfl, rfl, rfl, by decide⟩

theorem witness_CompletionIsNeverStuck :
    (busyWith .decompress abaBlob).engine = .busy ∧ (busyWith .decompress abaBlob).rst = false := by decide

/-- Two states with one input and different flags, control and output. -/
theorem witness_ResultDependsOnlyOnTheInput :
    let s := busyWith .compress aba
    let t := { busyWith .compress aba with ie := true, statusOvr := true, outLen := 5#32, inDraw := 7 }
    s ≠ t ∧ s.params = t.params ∧ s.curOp = t.curOp ∧ s.inLen = t.inLen ∧
    ∀ k, k < s.inLen.toNat → s.inByte k = t.inByte k := by
  refine ⟨by decide, rfl, rfl, rfl, ?_⟩
  intro k hk
  have h8 : k < 8 := hk
  interval_cases k <;> rfl

theorem witness_LengthErrorsComeFirst :
    (let s := { busyWith .compress [] with inLen := 4097#32 }
     s.engine = .busy ∧ s.rst = false ∧ s.inLen.toNat > s.params.inBytes) ∧
    (let s := busyWith .compress []
     s.inLen.toNat ≤ s.params.inBytes ∧ s.curOp = .compress ∧ s.inLen.toNat = 0) ∧
    (let s := busyWith .decompress [0#8, 0#8, 0#8]
     s.inLen.toNat ≤ s.params.inBytes ∧ s.curOp = .decompress ∧ s.inLen.toNat < 4) := by decide

theorem witness_ErrorsOfEachCommand :
    compressText Params.reference [0xFF#8] = raise .illFormedUtf8 ∧
    decompressBlob Params.reference [0#8, 0#8, 0#8] = raise .shortHeader := by decide

theorem witness_DecompressInvertsCompress :
    Params.reference.Legal ∧ compressText Params.reference aba = .ok abaBlob ∧
    aba.length ≤ Params.reference.outBytes := by decide +kernel

/-- V-SRC-6: four copies of a; and the boundary n = 1. -/
theorem witness_SingleSymbolBlob :
    Params.reference.Legal ∧ isScalar 0x61 ∧ (1 ≤ 4 ∧ 1 ≤ 1) ∧
    4 + ([chOpen, chQuote] ++ escapeKey 0x61 ++ [chQuote, chColon, chQuote, chZero, chQuote, chClose]).length +
      1 + (4 + 7) / 8 ≤ Params.reference.outBytes := by decide

theorem witness_TruncatedBlobIsRejected :
    Params.reference.Legal ∧ compressText Params.reference aba = .ok abaBlob ∧
    splitContainer abaBlob = .ok (abaText, [0x02#8, 0x4C#8, 0x9C#8]) ∧
    (3 < 4 ∧ (4 ≤ 4 ∧ 4 < 4 + abaText.length) ∧ (4 ≤ 41 ∧ 41 < 4 + abaText.length) ∧
      42 = 4 + abaText.length) := by decide +kernel

theorem witness_Utf8DecodeInvertsEncode :
    isScalar 0 ∧ isScalar 0xD7FF ∧ isScalar 0xE000 ∧ isScalar 0x10FFFF ∧
    utf8Head [0xE6#8, 0x97#8, 0xA5#8, 0x61#8] = some (0x65E5, 3) := by decide

theorem witness_FrequencyTableOfScan :
    scanAndCount Params.reference aba = .ok ([0x61, 0x62, 0x61, 0x63, 0x61, 0x62, 0x61, 0x64], abaFreq) ∧
    aba ≠ [] := by decide

theorem witness_ScanReportsTheFirstError :
    let p := { Params.reference with maxSymbols := 2 }
    (∀ c ∈ ([0x61, 0x62] : List Symbol), isScalar c) ∧ ([0x61, 0x62] : List Symbol).eraseDups.length ≤ p.maxSymbols ∧
    ([0xFF#8, 0x63#8] : List Byte) ≠ [] ∧ utf8Head [0xFF#8, 0x63#8] = none ∧
    isScalar 0x63 ∧ 0x63 ∉ ([0x61, 0x62] : List Symbol) ∧
    ([0x61, 0x62] : List Symbol).eraseDups.length = p.maxSymbols := by decide

/-- V-PQ-3 and V-PQ-4. -/
theorem witness_QueueIsStableAndAscending :
    Queue.Ascending [(1, 2), (2, 1), (4, 0)] ∧ Queue.Ascending [] ∧
    ([(1, 2), (2, 1), (4, 0)] : Queue) = (1, 2) :: [(2, 1), (4, 0)] := by
  simp [Queue.Ascending]

theorem witness_TreeOfFrequencies :
    abaFreq ≠ [] ∧ ([(0x61, 4)] : Freq) ≠ [] ∧ (abaFreq.length ≤ 4 ∧ 4 < 2 * abaFreq.length - 1) := by decide

theorem witness_CodeTableIsPrefixFree : abaFreq ≠ [] ∧ ([(0x61, 4)] : Freq) ≠ [] := by decide

theorem witness_KraftSumIsOne : 2 ≤ abaFreq.length ∧ codesOf abaFreq = .ok abaCodes := by decide

theorem witness_ReverseTableIsTheInverse :
    buildReverse Params.reference abaCodes = .ok (invert abaCodes) ∧
    (invert abaCodes).symbolOf [true, false] = some 0x62 := by decide

/-- One table for each check: V-REV-2, V-REV-9, V-REV-10, V-REV-6, V-REV-3, V-REV-4 and V-REV-1. -/
theorem witness_ReverseTableChecksInOrder :
    let r := Params.reference
    ([] : Codes) = [] ∧
    (abaCodes ≠ [] ∧ abaCodes.length > ({ r with maxSymbols := 3 } : Params).maxSymbols) ∧
    (abaCodes.length ≤ r.maxSymbols ∧ ∃ e ∈ abaCodes, e.2.length > ({ r with maxCodeLen := 2 } : Params).maxCodeLen) ∧
    (let E : Codes := [(0x61, [false]), (0x61, [false])]
     E ≠ [] ∧ E.length ≤ r.maxSymbols ∧ (∀ e ∈ E, e.2.length ≤ r.maxCodeLen) ∧ ¬(E.map (·.1)).Nodup) ∧
    (let E : Codes := [(0x61, [false]), (0x62, [false])]
     E ≠ [] ∧ E.length ≤ r.maxSymbols ∧ (∀ e ∈ E, e.2.length ≤ r.maxCodeLen) ∧ (E.map (·.1)).Nodup ∧
       ¬(E.map (·.2)).Nodup) ∧
    (let E : Codes := [(0x61, [false]), (0x62, [false, true])]
     E ≠ [] ∧ E.length ≤ r.maxSymbols ∧ (∀ e ∈ E, e.2.length ≤ r.maxCodeLen) ∧ (E.map (·.1)).Nodup ∧
       (E.map (·.2)).Nodup ∧ ∃ a ∈ E, ∃ b ∈ E, a.2 <+: b.2 ∧ a.2 ≠ b.2) ∧
    ((∀ e ∈ abaCodes, e.2.length ≤ r.maxCodeLen) ∧ (abaCodes.map (·.1)).Nodup ∧ (abaCodes.map (·.2)).Nodup ∧
       ¬(∃ a ∈ abaCodes, ∃ b ∈ abaCodes, a.2 <+: b.2 ∧ a.2 ≠ b.2)) := by decide

/-- V-UNP-5, V-UNP-7, V-UNP-3, V-UNP-8: 8, then 3 with no byte, then 0 with none, then 7 with one. -/
theorem witness_UnpackChecksAndBits :
    7 < (8#8).toNat ∧
    ((3#8).toNat ≤ 7 ∧ 8 * ([] : List Byte).length < (3#8).toNat) ∧
    ((0#8).toNat ≤ 7 ∧ (0#8).toNat ≤ 8 * ([] : List Byte).length) ∧
    ((7#8).toNat ≤ 7 ∧ (7#8).toNat ≤ 8 * [0x00#8].length) := by decide

theorem witness_ParseOfSerialize : ∀ e ∈ abaCodes, isScalar e.1 ∧ e.2 ≠ [] := by decide

theorem witness_ParsedTextIsCanonical : parseTable abaText = .ok abaCodes := by decide +kernel

theorem witness_SplitOfFrame : abaText.length < 2 ^ 32 := by decide

/-- V-SPL-2 and the boundary N = len(C) - 4 of V-SPL-5. -/
theorem witness_SplitContainerChecksAndRegions :
    ([0#8, 0#8, 0#8] : List Byte).length < 4 ∧
    38 = (0#8).toNat * 2 ^ 24 + (0#8).toNat * 2 ^ 16 + (0#8).toNat * 2 ^ 8 + (0x26#8).toNat ∧
    ([] : List Byte).length < 38 ∧ 38 ≤ abaText.length := by decide

theorem witness_TreeWalkerAgrees : buildReverse Params.reference abaCodes = .ok (invert abaCodes) := by decide

/-- V-DEC-1, and V-DEC-10 with P_OUT_BYTES = 7. -/
theorem witness_DecodeOfConcatenatedCodes :
    buildReverse Params.reference abaCodes = .ok (invert abaCodes) ∧ (∀ e ∈ abaCodes, e.2 ≠ []) ∧
    concatCodes abaCodes [0x61, 0x62, 0x61, 0x63, 0x61, 0x62, 0x61, 0x64] = .ok abaBits ∧
    (utf8EncodeAll [0x61, 0x62, 0x61, 0x63, 0x61, 0x62, 0x61, 0x64]).length ≤ Params.reference.outBytes ∧
    ¬(utf8EncodeAll [0x61, 0x62, 0x61, 0x63, 0x61, 0x62, 0x61, 0x64]).length ≤
      ({ Params.reference with outBytes := 7 } : Params).outBytes := by decide

theorem witness_CompleteTableNeverRaisesBadCode : 2 ≤ abaFreq.length ∧ codesOf abaFreq = .ok abaCodes := by decide

/-- V-DEC-C-5. -/
theorem witness_EmptyStreamDecodesToNothing :
    (let s := busyWith .decompress (abaBlob.take 42 ++ [0x00#8])
     s.engine = .busy ∧ s.rst = false ∧ s.curOp = .decompress ∧ s.inputLength ≤ s.params.inBytes ∧
     abaText.length < 2 ^ 32 ∧ s.inputBytes = frame abaText [0x00#8] ∧ parseTable abaText = .ok abaCodes ∧
     buildReverse s.params abaCodes = .ok (invert abaCodes)) ∧
    Params.reference.Legal ∧ compressText Params.reference aba = .ok abaBlob ∧
    splitContainer abaBlob = .ok (abaText, [0x02#8, 0x4C#8, 0x9C#8]) := by decide +kernel

/-- V-PAR-2: the reverse order. -/
theorem witness_EntryOrderHasNoEffect :
    abaCodes.Perm abaCodes.reverse ∧ (∀ e ∈ abaCodes, isScalar e.1 ∧ e.2 ≠ []) ∧
    (serializeTable abaCodes).length < 2 ^ 32 := by decide +kernel

/-- The first and last byte of each region, and accesses just past them. -/
theorem witness_BusErrorExactlyWhenNotPermitted :
    let p := Params.reference
    (Permitted p 0x000#32 4 ∧ Permitted p 0xFFC#32 4 ∧ Permitted p 0x40000000#32 1 ∧ Permitted p 0x40000FFC#32 4 ∧
      Permitted p 0x80001FFF#32 1) ∧
    ¬Permitted p 0x00C#32 2 ∧ ¬Permitted p 0x1000#32 4 ∧ ¬Permitted p 0x40000002#32 4 ∧
    ¬Permitted p 0x40001000#32 4 ∧ ¬Permitted p 0x80002000#32 1 := by
  simp [Permitted, Params.reference]

theorem witness_CsrReadValues :
    ((0x02C#32).toNat % 4 = 0 ∧ 0x02C ≤ (0x02C#32).toNat ∧ (0x02C#32).toNat ≤ 0xFFC) ∧
    ((0xFFC#32).toNat % 4 = 0 ∧ 0x02C ≤ (0xFFC#32).toNat ∧ (0xFFC#32).toNat ≤ 0xFFC) ∧
    step { State.reset with inputs := [.rst true] } =
      .next { ({ State.reset with inputs := [] } : State).resetBlock with rst := true } :=
  ⟨by decide, by decide, rfl⟩

theorem witness_CsrWriteEffects :
    (idleWith aba).engine = .idle ∧ (busyWith .compress aba).engine = .busy ∧
    ((0x010#32).toNat % 4 = 0 ∧ (0x010#32).toNat = 0x010) ∧
    ((0x018#32).toNat % 4 = 0 ∧ 0x018 ≤ (0x018#32).toNat) ∧
    ((0xFFC#32).toNat % 4 = 0 ∧ 0x018 ≤ (0xFFC#32).toNat ∧ (0xFFC#32).toNat ≤ 0xFFC) := by decide

/-- The window's first byte, its last word, and one byte past it. -/
theorem witness_InWindowAccesses :
    let p := Params.reference
    (0x40000000 ≤ (0x40000FFC#32).toNat ∧ (0x40000FFC#32).toNat < 0x80000000 ∧ (0x40000FFC#32).toNat % 4 = 0 ∧
      (0x40000FFC#32).toNat + 4 ≤ 0x40000000 + p.inBytes) ∧
    (0x40000000 ≤ (0x40000000#32).toNat ∧ (0x40000000#32).toNat + 1 ≤ 0x40000000 + p.inBytes) ∧
    ¬((0x40001000#32).toNat + 1 ≤ 0x40000000 + p.inBytes) ∧
    (idleWith aba).engine = .idle ∧ (busyWith .compress aba).engine = .busy := by decide

theorem witness_OutWindowAccesses :
    Permitted (idleWith aba).params 0x80001FFC#32 4 ∧ (idleWith aba).params.Legal ∧
    0x80000000 ≤ (0x80001FFC#32).toNat ∧ (idleWith aba).engine = .idle ∧ (busyWith .compress aba).engine = .busy := by
  refine ⟨?_, by decide, by decide, rfl, rfl⟩
  simp [Permitted, idleWith, State.reset, Params.reference]

/-- A CSR read, and a read of OUT_MEM while BUSY, which uses up a draw. -/
theorem witness_ReadsHaveNoSideEffect :
    memRead 0x000#32 4 (idleWith aba) = some (0x48554631#32, idleWith aba) ∧
    ∃ v, memRead 0x80000000#32 1 (busyWith .compress aba) = some (v, { busyWith .compress aba with draws := 2 }) :=
  ⟨rfl, _, rfl⟩

theorem witness_InterruptLevel :
    ({ State.reset with statusDone := true } : State).statusDone = true ∧ State.reset.engine = .idle := by decide

theorem witness_ResetState :
    (0x004#32).toNat % 4 = 0 ∧ 0x004 ≤ (0x004#32).toNat ∧ (0x018#32).toNat % 4 = 0 ∧ (0x018#32).toNat ≤ 0x018 := by
  decide

theorem witness_ResetAbandonsTheCommand : ({ State.reset with rst := true } : State).rst = true := by decide

/-- A BUSY block that is about to complete. -/
theorem witness_StepKeepsTheInvariant :
    (busyWith .compress aba).Inv ∧
    step (busyWith .compress aba) = .next ((busyWith .compress aba).recordOutput abaBlob).retire := by
  refine ⟨?_, ?_⟩
  · constructor
    · decide
    · decide
    · decide
    · decide
    · rfl
    · decide
    · intro _; exact ⟨rfl, rfl, rfl, rfl, rfl⟩
    · intro h; cases h
    · intro h; cases h
    · decide
  · rw [step_of_nil rfl, engineTurn_of_busy rfl rfl]
    exact completion_of_ok (by decide +kernel)

theorem witness_InputIsFrozenWhileBusy :
    let s := { busyWith .compress aba with inputs := [.host (.write inLenAddr 4 5#32)] }
    s.engine = .busy ∧ (∀ rest, s.inputs ≠ .rst true :: rest) ∧ s.rst = false ∧
    step s = .next { s with inputs := [], response := .written, statusWlock := true } := by
  refine ⟨rfl, ?_, rfl, rfl⟩
  intro rest h
  cases h

theorem witness_OnlyAcceptanceStartsTheEngine :
    let s := { idleWith aba with inputs := [.host (.write cmdAddr 4 1#32)] }
    let t := ({ s with inputs := [], response := .written } : State).accept .compress
    s.engine = .idle ∧ step s = .next t ∧ t.engine = .busy := ⟨rfl, rfl, rfl⟩

theorem witness_AcceptedCommandCompletes :
    let s := { busyWith .compress aba with inputs := [.host (.read statusAddr 4), .host (.write inLenAddr 4 5#32)] }
    s.engine = .busy ∧ s.rst = false ∧ ∀ i ∈ s.inputs, QuietInput s.params i := by
  refine ⟨rfl, rfl, ?_⟩
  intro i hi
  simp only [List.mem_cons, List.not_mem_nil, or_false] at hi
  rcases hi with rfl | rfl
  · exact .inl ⟨rfl, by decide, by decide⟩
  · exact .inl ⟨rfl, by decide, by decide⟩

theorem witness_WaitLoopEnds :
    let s := { busyWith .compress aba with inputs := [.host (.wait 1)] }
    s.engine = .busy ∧ s.rst = false ∧ s.statusDone = false ∧ s.inputs = .host (.wait 1) :: [] := by decide

/-- Two bytes of output to copy. -/
theorem witness_CopyOutCopiesTheOutput :
    let s := { State.reset with
      outMem := [(0, 0x61#8), (1, 0x62#8)], outLen := 2#32, inputs := [.host .copyOut] }
    s.engine = .idle ∧ s.rst = false ∧ s.params.Legal ∧ s.outLen.toNat ≤ s.params.outBytes ∧
    s.outLen.toNat ≤ s.params.inBytes ∧ s.inputs = .host .copyOut :: [] := by decide

end Sys2Proof.Tests
end

section
/-! PROOFS. 10_state.md: the completion step (R47), what the CSRs read, and the capacities as constants (R22 to R37). -/

namespace Sys2Proof.Machine

/-! ## The size of a command's output -/

/-- The only way to emit a symbol: its bytes fit, and they go to the end of the output (47_symbol_decoder.md R290). -/
theorem emit_eq_ok {p : Params} {out out' : List Byte} {c : Symbol} :
    emit p out c = .ok out' ↔ out.length + (utf8Encode c).length ≤ p.outBytes ∧ out' = out ++ utf8Encode c := by
  unfold emit
  split
  · next h => simp [Nat.not_le.2 h]
  · next h => simp [Nat.not_lt.1 h, eq_comm]

/-- The decoding loop checks the capacity on every emission, so its output stays inside P_OUT_BYTES. -/
theorem decodeFrom_length_le {p : Params} {rev : RevTable} {result : List Byte} (S : Bits) :
    ∀ {acc : Bits} {out : List Byte}, out.length ≤ p.outBytes → decodeFrom p rev S acc out = .ok result →
      result.length ≤ p.outBytes := by
  induction S with
  | nil =>
    intro acc out hout h
    rw [decodeFrom] at h
    split at h
    · cases h; exact hout
    · exact absurd h (raise_ne_ok _ _)
  | cons b S ih =>
    intro acc out hout h
    rw [decodeFrom] at h
    split at h
    · split at h
      · cases h
      · next out' he =>
        obtain ⟨hlen, rfl⟩ := emit_eq_ok.1 he
        exact ih (by simpa using hlen) h
    · split at h
      · exact ih hout h
      · exact absurd h (raise_ne_ok _ _)

theorem compressText_length_le {p : Params} {T blob : List Byte} (h : compressText p T = .ok blob) :
    blob.length ≤ p.outBytes := by
  obtain ⟨-, _, _, _, _, _, _, -, -, -, -, -, -, hlen⟩ := compressText_eq_ok h
  exact hlen

theorem decompressBlob_length_le {p : Params} {C text : List Byte} (h : decompressBlob p C = .ok text) :
    text.length ≤ p.outBytes := by
  obtain ⟨_, _, _, _, bits, -, -, -, -, hdec⟩ := decompressBlob_eq_ok h
  exact decodeFrom_length_le bits (Nat.zero_le _) hdec

theorem runOp_length_le {p : Params} {op : Op} {input out : List Byte} (h : runOp p op input = .ok out) :
    out.length ≤ p.outBytes := by
  cases op with
  | compress => exact compressText_length_le h
  | decompress => exact decompressBlob_length_le h

/-! ## The completion step -/

/-- IN_LEN above P_IN_BYTES is reported whatever the command and its input (40_commands.md R143, R144). -/
theorem State.commandResult_of_gt {s : State} (h : s.inputLength > s.params.inBytes) :
    s.commandResult = raise .capInLen :=
  if_pos h

/-- A successful command's output fits OUT_MEM. -/
theorem State.commandResult_length_le {s : State} {out : List Byte} (h : s.commandResult = .ok out) :
    out.length ≤ s.params.outBytes := by
  by_cases hlen : s.inputLength > s.params.inBytes
  · rw [State.commandResult_of_gt hlen] at h
    exact absurd h (raise_ne_ok _ _)
  · rw [State.commandResult_of_le (Nat.not_lt.1 hlen)] at h
    exact runOp_length_le h

/-- No value of the ERR register is cut off at 32 bits. -/
@[simp] theorem Err.toNat_word (e : Err) : e.word.toNat = e.detail * 256 + e.cls := by
  cases e <;> rfl

@[simp] theorem State.outByte_retire (s : State) (k : Nat) : s.retire.outByte k = s.outByte k := rfl

/-- A length inside P_OUT_BYTES is held by OUT_LEN as it is: legal capacities are far below 2^32. -/
theorem State.toNat_outLen_recordOutput {s : State} {out : List Byte} (hp : s.params.Legal)
    (h : out.length ≤ s.params.outBytes) : (s.recordOutput out).outLen.toNat = out.length := by
  obtain ⟨-, ⟨-, hmax⟩, -, -⟩ := hp
  rw [State.recordOutput_outLen, BitVec.toNat_ofNat, Nat.mod_eq_of_lt (by omega)]

/-- Settles O12: completion records the output or the error and retires; an output always fits OUT_MEM, since both
commands check P_OUT_BYTES before they return. -/
theorem completionCommitsTheResult : Obligations.CompletionCommitsTheResult := by
  intro s hrst hlegal
  refine ⟨engineTurn_of_idle, State.commandResult_of_gt, ?compress, ?decompress, ?success, ?error⟩
  case compress =>
    intro hlen hop
    rw [State.commandResult_of_le hlen, hop]
    rfl
  case decompress =>
    intro hlen hop
    rw [State.commandResult_of_le hlen, hop]
    rfl
  case success =>
    intro hbusy out hout
    have hfits : out.length ≤ s.params.outBytes := State.commandResult_length_le hout
    refine ⟨(s.recordOutput out).retire, ?_, hfits, ?_,
      State.toNat_outLen_recordOutput hlegal hfits, rfl, rfl, rfl, rfl⟩
    · rw [engineTurn_of_busy hrst hbusy, completion_of_ok hout]
    · intro i hi
      rw [State.outByte_retire, State.outByte_recordOutput s out i hi, List.getElem?_eq_getElem hi]
  case error =>
    intro hbusy e he
    refine ⟨(s.recordError e).retire, ?_, rfl, Err.toNat_word e, rfl, rfl, rfl⟩
    rw [engineTurn_of_busy hrst hbusy, completion_of_raise he]

/-! ## Accesses to the CSR page -/

/-- An aligned word of the CSR page is the CSR at its offset, whatever the capacities (20_memory.md R73). -/
theorem regionOf_csrPage (p : Params) {a : Word} (haligned : a.toNat % 4 = 0) (hpage : a.toNat ≤ 0xFFC) :
    regionOf p a 4 = some (.csr (csrAt a.toNat)) := by
  have hend : a.toNat + 4 ≤ csrEnd := by rw [csrEnd_eq]; omega
  rw [regionOf, if_pos hend, if_pos ⟨rfl, haligned⟩]

/-- A read of a CSR returns its value and changes nothing (10_state.md R49). -/
theorem memRead_csrPage (s : State) {a : Word} (haligned : a.toNat % 4 = 0) (hpage : a.toNat ≤ 0xFFC) :
    memRead a 4 s = some (s.csrRead (csrAt a.toNat), s) := by
  rw [memRead, regionOf_csrPage s.params haligned hpage]

/-- Past CAP_CODELEN the page holds no register (10_state.md R37). -/
theorem csrAt_reserved {off : Nat} (h : 0x02C ≤ off) : csrAt off = .reserved := by
  unfold csrAt
  repeat rw [if_neg (by omega)]

theorem State.toNat_ctrlWord (s : State) : s.ctrlWord.toNat = s.ie.toNat := by
  unfold State.ctrlWord
  cases s.ie <;> rfl

/-- The five flags of STATUS stand in bits 0 to 4, so the value is their weighted sum (10_state.md R25 to R29). -/
theorem State.toNat_statusWord (s : State) :
    s.statusWord.toNat = s.busy.toNat + 2 * s.statusDone.toNat + 4 * s.statusErr.toNat + 8 * s.statusOvr.toNat +
      16 * s.statusWlock.toNat := by
  have hflags : ∀ busy done err ovr wlock : Bool,
      (flagBit 0 busy ||| flagBit 1 done ||| flagBit 2 err ||| flagBit 3 ovr ||| flagBit 4 wlock).toNat =
        busy.toNat + 2 * done.toNat + 4 * err.toNat + 8 * ovr.toNat + 16 * wlock.toNat := by
    decide
  exact hflags _ _ _ _ _

/-! ## The capacities are constants -/

theorem exec_params {i : Instr} {s t : State} (h : exec i s = .next t) : t.params = s.params := by
  obtain ⟨-, rfl⟩ | ⟨-, ⟨-, rfl⟩ | ⟨-, rfl⟩ | ⟨-, rfl⟩ | ⟨e, rfl⟩⟩ := exec_cases h <;> rfl

theorem memRead_params {a v : Word} {n : Nat} {s t : State} (h : memRead a n s = some (v, t)) :
    t.params = s.params := by
  obtain rfl | ⟨-, rfl⟩ := memRead_state h <;> rfl

theorem memWrite_params {a v : Word} {n : Nat} {s t : State} (h : memWrite a n v s = .next t) :
    t.params = s.params := by
  obtain rfl | rfl | rfl | rfl | ⟨-, -, hexec⟩ | ⟨off, -, rfl⟩ := memWrite_cases h
  · rfl
  · rfl
  · rfl
  · exact State.writeInLen_params s v
  · exact exec_params hexec
  · exact State.writeInWindow_params s off n v

theorem engineTurn_params {s t : State} (h : engineTurn s = .next t) : t.params = s.params := by
  obtain ⟨-, rfl⟩ | ⟨-, -, ⟨out, -, rfl⟩ | ⟨e, -, rfl⟩⟩ := engineTurn_cases h <;> rfl

/-- A host read keeps the capacities when what the host goes on to do with the value does. -/
theorem hostRead_params {a : Word} {n : Nat} {k : Word → State → State} {s t : State}
    (hk : ∀ v u, (k v u).params = u.params) (h : hostRead a n k s = .next t) : t.params = s.params := by
  obtain ⟨v, u, hread, rfl⟩ := hostRead_cases h
  rw [hk, State.respond_params, memRead_params hread]

theorem hostWrite_params {a v : Word} {n : Nat} {s t : State} (h : hostWrite a n v s = .next t) :
    t.params = s.params :=
  memWrite_params (s := s.respond .written) h

theorem waitPoll_params {polls : Nat} {s t : State} (h : waitPoll polls s = .next t) : t.params = s.params :=
  hostRead_params (fun v u => by split <;> rfl) h

theorem hostWait_params {polls : Nat} {s t : State} (h : hostWait polls s = .next t) : t.params = s.params := by
  unfold hostWait at h
  split at h
  · exact engineTurn_params (s := s.push (.wait 0)) h
  · exact waitPoll_params h
  · exact waitPoll_params h

theorem hostCopyFrom_params {i n : Nat} {s t : State} (h : hostCopyFrom i n s = .next t) : t.params = s.params := by
  unfold hostCopyFrom at h
  split at h
  · exact hostRead_params (by intro v u; rfl) h
  · exact hostWrite_params h

theorem hostStep_params {op : HostOp} {s t : State} (h : hostStep op s = .next t) : t.params = s.params := by
  cases op <;> rw [hostStep] at h
  case read => exact hostRead_params (by intro v u; rfl) h
  case write => exact hostWrite_params h
  case wait => exact hostWait_params h
  case copyOut => exact hostRead_params (by intro v u; rfl) h
  case copyFrom => exact hostCopyFrom_params h

theorem hostTurn_params {op : HostOp} {s t : State} (h : hostTurn op s = .next t) : t.params = s.params := by
  unfold hostTurn at h
  split at h
  · cases h; rfl
  · exact hostStep_params h

@[simp] theorem State.driveRst_params (level : Bool) (s : State) : (s.driveRst level).params = s.params := by
  obtain ⟨-, h⟩ | ⟨-, -, h⟩ := State.driveRst_cases level s <;> rw [h]
  rfl

theorem takeInput_params {i : Input} {s t : State} (h : takeInput i s = .next t) : t.params = s.params := by
  cases i with
  | host op => exact hostTurn_params h
  | engine => exact engineTurn_params h
  | rst level =>
    cases h
    exact State.driveRst_params level s

/-- No step changes a capacity, whatever its input (10_state.md R33 to R36, "a constant of the implementation"). -/
theorem step_params {s t : State} (h : step s = .next t) : t.params = s.params := by
  cases hin : s.inputs with
  | nil => exact engineTurn_params (step_of_nil hin ▸ h)
  | cons i rest =>
    rw [step_of_cons hin] at h
    exact takeInput_params (s := { s with inputs := rest }) h

/-- Settles O46: an aligned word of the page reads and writes the CSR at its offset, and every step keeps the
capacities. -/
theorem csrReadValues : Obligations.CsrReadValues := by
  intro s
  refine ⟨rfl, ⟨s.ctrlWord, rfl, s.toNat_ctrlWord⟩, rfl, ⟨s.statusWord, rfl, s.toNat_statusWord⟩, rfl, rfl, rfl,
    rfl, rfl, rfl, rfl, ?reserved, ?readOnly, fun t => step_params⟩
  case reserved =>
    intro a haligned hlow hpage
    rw [memRead_csrPage s haligned hpage, csrAt_reserved hlow]
    rfl
  case readOnly =>
    intro a v ha
    simp only [List.mem_cons, List.not_mem_nil, or_false] at ha
    obtain rfl | rfl | rfl | rfl | rfl := ha <;> rfl

end Sys2Proof.Machine
end

section
/-! PROOFS. 20_memory.md: which accesses the bus refuses (R72 to R75), and the IN window (R74, R76 to R78). -/

namespace Sys2Proof.Machine

/-! ## The permitted accesses -/

/-- An access that keeps the rules of the IN window touches it, whatever P_OUT_BYTES (20_memory.md R74). -/
theorem regionOf_inWindow {p : Params} {a : Word} {n : Nat} (hwidth : n = 1 ∨ n = 2 ∨ n = 4)
    (haligned : a.toNat % n = 0) (hlow : 0x40000000 ≤ a.toNat) (hhigh : a.toNat + n ≤ 0x40000000 + p.inBytes) :
    regionOf p a n = some (.inWin (a.toNat - 0x40000000)) := by
  have hcsr : ¬a.toNat + n ≤ csrEnd := by rw [csrEnd_eq]; omega
  rw [regionOf, if_neg hcsr, inBase_eq, if_pos ⟨hlow, hhigh⟩, if_pos ⟨(windowWidth_iff n).2 hwidth, haligned⟩]

/-- An access that keeps the rules of the OUT window touches it, unless P_IN_BYTES is so large that the IN window
covers it too (20_memory.md R75). -/
theorem regionOf_outWindow {p : Params} {a : Word} {n : Nat} (hwidth : n = 1 ∨ n = 2 ∨ n = 4)
    (haligned : a.toNat % n = 0) (hlow : 0x80000000 ≤ a.toNat) (hhigh : a.toNat + n ≤ 0x80000000 + p.outBytes)
    (hin : ¬a.toNat + n ≤ 0x40000000 + p.inBytes) :
    regionOf p a n = some (.outWin (a.toNat - 0x80000000)) := by
  have hcsr : ¬a.toNat + n ≤ csrEnd := by rw [csrEnd_eq]; omega
  rw [regionOf, if_neg hcsr, inBase_eq, if_neg (fun h => hin h.2), outBase_eq, if_pos ⟨hlow, hhigh⟩,
    if_pos ⟨(windowWidth_iff n).2 hwidth, haligned⟩]

theorem permitted_of_regionOf {p : Params} {a : Word} {n : Nat} {r : Region} (h : regionOf p a n = some r) :
    Permitted p a n := by
  cases r with
  | csr r =>
    obtain ⟨hwidth, haligned, hpage, -⟩ := regionOf_csr h
    exact .inl ⟨hwidth, haligned, by omega⟩
  | inWin off =>
    obtain ⟨hwidth, haligned, haddr, hend⟩ := regionOf_inWin h
    exact .inr (.inl ⟨hwidth, haligned, by omega, by omega⟩)
  | outWin off =>
    obtain ⟨hwidth, haligned, haddr, hend⟩ := regionOf_outWin h
    exact .inr (.inr ⟨hwidth, haligned, by omega, by omega⟩)

theorem regionOf_ne_none_of_permitted {p : Params} {a : Word} {n : Nat} (h : Permitted p a n) :
    regionOf p a n ≠ none := by
  obtain ⟨rfl, haligned, hpage⟩ | ⟨hwidth, haligned, hlow, hhigh⟩ | ⟨hwidth, haligned, hlow, hhigh⟩ := h
  · simp [regionOf_csrPage p haligned hpage]
  · simp [regionOf_inWindow hwidth haligned hlow hhigh]
  · by_cases hin : a.toNat + n ≤ 0x40000000 + p.inBytes
    · simp [regionOf_inWindow hwidth haligned (by omega) hin]
    · simp [regionOf_outWindow hwidth haligned hlow hhigh hin]

/-- The address map refuses exactly what the rules R71 to R75 do not permit. -/
theorem regionOf_eq_none_iff {p : Params} {a : Word} {n : Nat} : regionOf p a n = none ↔ ¬Permitted p a n := by
  constructor
  · intro hnone hperm
    exact regionOf_ne_none_of_permitted hperm hnone
  · intro hperm
    cases h : regionOf p a n with
    | none => rfl
    | some r => exact absurd (permitted_of_regionOf h) hperm

/-! ## BusError -/

theorem memRead_eq_none_iff {a : Word} {n : Nat} {s : State} :
    memRead a n s = none ↔ ¬Permitted s.params a n := by
  rw [← regionOf_eq_none_iff, memRead]
  split <;> simp [*]

/-- An access that goes on when it is permitted and is refused when it is not faults exactly when it is not. -/
theorem eq_busError_iff_not {P : Prop} {o : Host.Outcome State Fault Refusal} {a : Word} {n : Nat}
    (hnext : P → ∃ t, o = .next t) (hfault : ¬P → o = .fault (.busError a n)) :
    o = .fault (.busError a n) ↔ ¬P := by
  constructor
  · rintro rfl hperm
    obtain ⟨t, ht⟩ := hnext hperm
    cases ht
  · exact hfault

theorem memWrite_of_not_permitted {a : Word} {n : Nat} {s : State} (v : Word) (h : ¬Permitted s.params a n) :
    memWrite a n v s = .fault (.busError a n) := by
  rw [memWrite, regionOf_eq_none_iff.2 h]

theorem hostRead_of_not_permitted {a : Word} {n : Nat} {s : State} (k : Word → State → State)
    (h : ¬Permitted s.params a n) : hostRead a n k s = .fault (.busError a n) := by
  rw [hostRead, memRead_eq_none_iff.2 h]

theorem hostRead_next {a : Word} {n : Nat} {s : State} (k : Word → State → State) (h : Permitted s.params a n) :
    ∃ t, hostRead a n k s = .next t := by
  cases hread : memRead a n s with
  | none => exact absurd h (memRead_eq_none_iff.1 hread)
  | some r => exact ⟨_, by rw [hostRead, hread]⟩

/-- Settles O45: the address map refuses exactly the accesses that are not permitted, and a host access faults only
where it refuses. -/
theorem busErrorExactlyWhenNotPermitted : Obligations.BusErrorExactlyWhenNotPermitted := by
  intro s a v n
  have hread : Permitted s.params a n → ∃ t, hostStep (.read a n) s = .next t := hostRead_next fun _ u => u
  have hwrite : Permitted s.params a n → ∃ t, hostStep (.write a n v) s = .next t := fun h =>
    memWrite_next (s := s.respond .written) (regionOf_ne_none_of_permitted h)
  exact ⟨eq_busError_iff_not hread (hostRead_of_not_permitted fun _ u => u),
    eq_busError_iff_not hwrite (memWrite_of_not_permitted (s := s.respond .written) v),
    fun h => ⟨hread h, hwrite h⟩⟩

/-! ## Byte lanes (20_memory.md R76, R77) -/

theorem valueOfLanes_cons (b : Byte) (bs : List Byte) :
    valueOfLanes (b :: bs) = b.toNat + 256 * valueOfLanes bs := rfl

theorem valueOfLanes_lt (bs : List Byte) : valueOfLanes bs < 2 ^ (8 * bs.length) := by
  induction bs with
  | nil => simp [valueOfLanes]
  | cons b bs ih =>
    have hb : b.toNat < 256 := b.isLt
    rw [valueOfLanes_cons, List.length_cons, Nat.mul_succ, Nat.pow_add]
    omega

/-- Digit k in base 256 of the lanes' value is byte k. -/
theorem valueOfLanes_digit (bs : List Byte) :
    ∀ (k : Nat) (h : k < bs.length), valueOfLanes bs / 2 ^ (8 * k) % 256 = bs[k].toNat := by
  induction bs with
  | nil => intro k h; simp at h
  | cons b bs ih =>
    intro k h
    have hb : b.toNat < 256 := b.isLt
    rw [valueOfLanes_cons]
    cases k with
    | zero => simp; omega
    | succ k =>
      have htail : (b.toNat + 256 * valueOfLanes bs) / 256 = valueOfLanes bs := by omega
      rw [Nat.mul_succ, Nat.pow_add, Nat.mul_comm (2 ^ (8 * k)), ← Nat.div_div_eq_div_mul, htail,
        ih k (by simpa using h)]
      simp

/-- At most four lanes fill no more than the bus word. -/
theorem toNat_ofNat_valueOfLanes {bs : List Byte} (h : bs.length ≤ 4) :
    (BitVec.ofNat 32 (valueOfLanes bs)).toNat = valueOfLanes bs := by
  have hfits : 2 ^ (8 * bs.length) ≤ 2 ^ 32 := Nat.pow_le_pow_right (by decide) (by omega)
  rw [BitVec.toNat_ofNat, Nat.mod_eq_of_lt (Nat.lt_of_lt_of_le (valueOfLanes_lt bs) hfits)]

/-- Bits [8k+7:8k] of the value read are byte k. -/
theorem extractLsb'_ofNat_valueOfLanes {bs : List Byte} (hlen : bs.length ≤ 4) {k : Nat} (hk : k < bs.length) :
    (BitVec.ofNat 32 (valueOfLanes bs)).extractLsb' (8 * k) 8 = bs[k] := by
  apply BitVec.eq_of_toNat_eq
  rw [BitVec.extractLsb'_toNat, toNat_ofNat_valueOfLanes hlen, Nat.shiftRight_eq_div_pow]
  exact valueOfLanes_digit bs k hk

/-- The lanes k, ..., k + n - 1 of a bus value hold its bits from 8k on. -/
theorem valueOfLanes_laneOfValue_range' (v : Word) (n : Nat) :
    ∀ k, valueOfLanes ((List.range' k n).map (laneOfValue v)) = v.toNat / 2 ^ (8 * k) % 2 ^ (8 * n) := by
  induction n with
  | zero => intro k; simp [valueOfLanes, Nat.mod_one]
  | succ n ih =>
    intro k
    have hlane : (laneOfValue v k).toNat = v.toNat / 2 ^ (8 * k) % 2 ^ 8 := by
      rw [laneOfValue, BitVec.extractLsb'_toNat, Nat.shiftRight_eq_div_pow]
    have hrest : v.toNat / 2 ^ (8 * (k + 1)) = v.toNat / 2 ^ (8 * k) / 2 ^ 8 := by
      rw [Nat.div_div_eq_div_mul, ← Nat.pow_add, Nat.mul_succ]
    rw [List.range'_succ, List.map_cons, valueOfLanes_cons, ih, hlane, hrest, Nat.mul_succ, Nat.add_comm (8 * n),
      Nat.pow_add, Nat.mod_mul]

theorem valueOfLanes_laneOfValue (v : Word) (n : Nat) :
    valueOfLanes ((List.range n).map (laneOfValue v)) = v.toNat % 2 ^ (8 * n) := by
  rw [List.range_eq_range', valueOfLanes_laneOfValue_range']
  simp

/-! ## The IN window -/

@[simp] theorem State.length_inSlice (s : State) (off n : Nat) : (s.inSlice off n).length = n := by
  simp [State.inSlice]

theorem State.getElem_inSlice (s : State) (off n k : Nat) (h : k < (s.inSlice off n).length) :
    (s.inSlice off n)[k] = s.inByte (off + k) := by
  simp [State.inSlice]

theorem State.inByte_storeIn_lanes (s : State) (off : Nat) (v : Word) {n k : Nat} (h : k < n) :
    (s.storeIn off ((List.range n).map (laneOfValue v))).inByte (off + k) = laneOfValue v k := by
  rw [State.inByte_storeIn s off k _ (by simpa using h)]
  simp

/-- The lanes stored are the bytes that then stand there. -/
theorem State.inSlice_storeIn_lanes (s : State) (off : Nat) (v : Word) (n : Nat) :
    (s.storeIn off ((List.range n).map (laneOfValue v))).inSlice off n = (List.range n).map (laneOfValue v) :=
  List.map_congr_left fun _ hk => s.inByte_storeIn_lanes off v (List.mem_range.1 hk)

theorem memRead_of_inWin {a : Word} {n off : Nat} {s : State} (h : regionOf s.params a n = some (.inWin off)) :
    memRead a n s = some (BitVec.ofNat 32 (valueOfLanes (s.inSlice off n)), s) := by
  rw [memRead, h]

theorem memWrite_of_inWin {a : Word} {n off : Nat} {s : State} (v : Word)
    (h : regionOf s.params a n = some (.inWin off)) : memWrite a n v s = .next (s.writeInWindow off n v) := by
  rw [memWrite, h]

theorem State.writeInWindow_of_idle {s : State} (h : s.engine = .idle) (off n : Nat) (v : Word) :
    s.writeInWindow off n v = s.storeIn off ((List.range n).map (laneOfValue v)) := by
  rw [State.writeInWindow, h]

theorem State.writeInWindow_of_busy {s : State} (h : s.engine = .busy) (off n : Nat) (v : Word) :
    s.writeInWindow off n v = s.setWlock := by
  rw [State.writeInWindow, h]

/-- Between IN_BASE and OUT_BASE the only permitted accesses are those of the IN window (20_memory.md R71, R74). -/
theorem permitted_between_bases {p : Params} {a : Word} {n : Nat} (hlow : 0x40000000 ≤ a.toNat)
    (hhigh : a.toNat < 0x80000000) (h : Permitted p a n) :
    (n = 1 ∨ n = 2 ∨ n = 4) ∧ a.toNat % n = 0 ∧ a.toNat + n ≤ 0x40000000 + p.inBytes := by
  obtain ⟨-, -, hpage⟩ | ⟨hwidth, haligned, -, hend⟩ | ⟨-, -, hout, -⟩ := h
  · omega
  · exact ⟨hwidth, haligned, hend⟩
  · omega

/-- Settles O48: the access touches the IN window or nothing, a read returns the lanes of the stored bytes, and a write
stores its lanes while IDLE and sets WLOCK while BUSY. -/
theorem inWindowAccesses : Obligations.InWindowAccesses := by
  intro s a v n hlow hhigh
  refine ⟨fun hbad => ?refused, fun hwidth haligned hend => ?permitted⟩
  case refused =>
    have hperm : ¬Permitted s.params a n := fun h => hbad (permitted_between_bases hlow hhigh h)
    exact ⟨memRead_eq_none_iff.2 hperm, memWrite_of_not_permitted v hperm⟩
  case permitted =>
    generalize hoff : a.toNat - 0x40000000 = off
    have hreg : regionOf s.params a n = some (.inWin off) := hoff ▸ regionOf_inWindow hwidth haligned hlow hend
    have hn : n ≤ 4 := by omega
    refine ⟨?read, fun hidle => ?idle, fun hbusy => ?busy⟩
    case read =>
      have hlen : (s.inSlice off n).length ≤ 4 := by rwa [State.length_inSlice]
      refine ⟨_, memRead_of_inWin hreg, ?_, fun k hk => ?_⟩
      · rw [toNat_ofNat_valueOfLanes hlen]
        simpa using valueOfLanes_lt (s.inSlice off n)
      · rw [extractLsb'_ofNat_valueOfLanes hlen (by simpa using hk), State.getElem_inSlice]
    case idle =>
      refine ⟨s.storeIn off ((List.range n).map (laneOfValue v)), ?_, rfl,
        fun k hk => s.inByte_storeIn_lanes off v hk, fun i hi => ?_, _, memRead_of_inWin hreg, ?_⟩
      · rw [memWrite_of_inWin v hreg, State.writeInWindow_of_idle hidle]
      · exact s.inByte_storeIn_of_outside off i _ (by simpa using hi)
      · rw [State.inSlice_storeIn_lanes, toNat_ofNat_valueOfLanes (by simpa using hn), valueOfLanes_laneOfValue]
    case busy =>
      rw [memWrite_of_inWin v hreg, State.writeInWindow_of_busy hbusy]
      rfl

end Sys2Proof.Machine
end

section
/-! PROOFS. 30_encoding.md: the decoding order (R102), and what each word written to CMD does (40_commands.md R140). -/

namespace Sys2Proof

/-! ## The fields as numbers -/

theorem toNat_opField (w : Word) : (opField w).toNat = w.toNat % 16 := by
  simp [opField]

theorem toNat_rsvdField (w : Word) : (rsvdField w).toNat = w.toNat / 16 := by
  rw [rsvdField, BitVec.extractLsb'_toNat, Nat.shiftRight_eq_div_pow]
  omega

theorem rsvdField_eq_zero_iff (w : Word) : rsvdField w = 0#28 ↔ w.toNat / 16 = 0 := by
  rw [← BitVec.toNat_inj, toNat_rsvdField, BitVec.toNat_ofNat, Nat.zero_mod]

theorem opField_eq_three_iff (w : Word) : opField w = 3#4 ↔ w.toNat % 16 = 3 := by
  rw [← BitVec.toNat_inj, toNat_opField]
  rfl

theorem getLsbD_three_iff (w : Word) : w.getLsbD 3 = true ↔ 8 ≤ w.toNat % 16 := by
  rw [BitVec.getLsbD, Nat.testBit_eq_decide_div_mod_eq, decide_eq_true_iff]
  omega

theorem getLsbD_two_iff (w : Word) : w.getLsbD 2 = true ↔ 4 ≤ w.toNat % 8 := by
  rw [BitVec.getLsbD, Nat.testBit_eq_decide_div_mod_eq, decide_eq_true_iff]
  omega

/-! ## The decoding order -/

/-- The OP check comes first: a reserved OP ends in one of three rows, whatever RSVD holds. -/
theorem decode_of_three_le_op {w : Word} (h : 3 ≤ w.toNat % 16) :
    decode w = .illegalOp8F (rsvdField w) (w.extractLsb' 0 3) ∨
    decode w = .illegalOp47 (rsvdField w) (w.extractLsb' 0 2) ∨ decode w = .illegalOp3 (rsvdField w) := by
  by_cases h8 : 8 ≤ w.toNat % 16
  · exact .inl (if_pos ((getLsbD_three_iff w).2 h8))
  have hbit3 : ¬w.getLsbD 3 = true := mt (getLsbD_three_iff w).1 h8
  by_cases h4 : 4 ≤ w.toNat % 8
  · exact .inr (.inl (by rw [decode, if_neg hbit3, if_pos ((getLsbD_two_iff w).2 h4)]))
  have hbit2 : ¬w.getLsbD 2 = true := mt (getLsbD_two_iff w).1 h4
  have hop : opField w = 3#4 := (opField_eq_three_iff w).2 (by omega)
  exact .inr (.inr (by rw [decode, if_neg hbit3, if_neg hbit2, if_pos hop]))

/-- The reserved bits come second: they decide for every OP that names a command. -/
theorem decode_of_rsvd_ne_zero {w : Word} (hop : w.toNat % 16 < 3) (hrsvd : w.toNat / 16 ≠ 0) :
    decode w = .illegalBits (rsvdField w) (w.extractLsb' 0 2) := by
  have hbit3 : ¬w.getLsbD 3 = true := mt (getLsbD_three_iff w).1 (by omega)
  have hbit2 : ¬w.getLsbD 2 = true := mt (getLsbD_two_iff w).1 (by omega)
  have hop3 : opField w ≠ 3#4 := mt (opField_eq_three_iff w).1 (by omega)
  have hne : rsvdField w ≠ 0#28 := mt (rsvdField_eq_zero_iff w).1 hrsvd
  rw [decode, if_neg hbit3, if_neg hbit2, if_neg hop3, if_pos hne]

end Sys2Proof

namespace Sys2Proof.Machine

/-! ## The dispatch of a command word -/

theorem idleEffect_decode_of_three_le_op {w : Word} (h : 3 ≤ w.toNat % 16) :
    Instr.idleEffect (decode w) = State.recordError .reservedOp := by
  obtain hw | hw | hw := decode_of_three_le_op h <;> rw [hw] <;> rfl

/-- Settles O7: BUSY drops every word, and while IDLE the decoding order picks the effect. -/
theorem commandDispatch : Obligations.CommandDispatch := by
  intro s w
  refine ⟨exec_of_busy (decode w), fun hidle => ?_⟩
  rw [exec_of_idle (decode w) hidle]
  refine ⟨fun hop => ?reservedOp, fun hop hrsvd => ?reservedBits, fun hw => ?nop, fun hw => ?compress,
    fun hw => ?decompress⟩
  case reservedOp => rw [idleEffect_decode_of_three_le_op hop]
  case reservedBits => rw [decode_of_rsvd_ne_zero hop hrsvd]; rfl
  case nop =>
    obtain rfl : w = 0#32 := BitVec.eq_of_toNat_eq hw
    rfl
  case compress =>
    obtain rfl : w = 1#32 := BitVec.eq_of_toNat_eq hw
    rfl
  case decompress =>
    obtain rfl : w = 2#32 := BitVec.eq_of_toNat_eq hw
    rfl

end Sys2Proof.Machine
end

section
/-! PROOFS. 40_commands.md: NOP (R141), the reserved command words (R142) and acceptance (R145). -/

namespace Sys2Proof

/-! ## The rows of the reserved words -/

theorem row_decode_of_three_le_op {w : Word} (h : 3 ≤ w.toNat % 16) :
    (decode w).row = .illegalOp3 ∨ (decode w).row = .illegalOp47 ∨ (decode w).row = .illegalOp8F := by
  obtain hw | hw | hw := decode_of_three_le_op h
  · exact .inr (.inr (congrArg Instr.row hw))
  · exact .inr (.inl (congrArg Instr.row hw))
  · exact .inl (congrArg Instr.row hw)

theorem row_decode_of_rsvd_ne_zero {w : Word} (hop : w.toNat % 16 < 3) (hrsvd : w.toNat / 16 ≠ 0) :
    (decode w).row = .illegalBits :=
  congrArg Instr.row (decode_of_rsvd_ne_zero hop hrsvd)

end Sys2Proof

namespace Sys2Proof.Machine

/-! ## The values of ERR -/

theorem Err.word_reservedOp : Err.reservedOp.word = 0x00000106#32 := rfl

theorem Err.word_reservedBits : Err.reservedBits.word = 0x00000206#32 := rfl

/-! ## The commands -/

/-- Settles O10: the OP check decides first and records RESERVED_OP; otherwise the reserved bits record RESERVED_BITS. -/
theorem illegalWordsAreRecorded : Obligations.IllegalWordsAreRecorded := by
  rintro _ w s hidle rfl hreserved
  obtain ⟨hexecOp, hexecBits, -⟩ := (commandDispatch s w).2 hidle
  by_cases hop : 3 ≤ w.toNat % 16
  case pos =>
    refine ⟨(row_decode_of_three_le_op hop).imp_right (Or.imp_right .inl), s.recordError .reservedOp, hexecOp hop, ?_⟩
    rw [if_pos hop, ← Err.word_reservedOp]
    rfl
  case neg =>
    have hlow : w.toNat % 16 < 3 := Nat.lt_of_not_le hop
    have hrsvd : w.toNat / 16 ≠ 0 := hreserved.resolve_left hop
    refine ⟨.inr (.inr (.inr (row_decode_of_rsvd_ne_zero hlow hrsvd))), s.recordError .reservedBits,
      hexecBits hlow hrsvd, ?_⟩
    rw [if_neg hop, ← Err.word_reservedBits]
    rfl

/-- Settles O8: the effect of NOP while IDLE is the identity, and BUSY drops it like every word. -/
theorem nopChangesNothing : Obligations.NopChangesNothing :=
  ⟨rfl, fun _ => ⟨exec_of_idle .nop, exec_of_busy .nop⟩⟩

/-- Settles O9: the effect of both codec commands while IDLE is `State.accept`, which writes these fields. -/
theorem codecCommandsAreAccepted : Obligations.CodecCommandsAreAccepted :=
  fun _ hidle => ⟨exec_of_idle .compress hidle, exec_of_idle .decompress hidle⟩

end Sys2Proof.Machine
end

section
/-! PROOFS. 42_priority_queue.md: where Enqueue inserts (R181) and what Pop takes (R182). On a queue in ascending order
the entries of priority <= p form a prefix, so cutting at their count, as `enqueue` does, is the position R181 names. -/

namespace Sys2Proof.Machine

/-! ## The order of the queue -/

theorem Queue.ascending_cons {e : Nat × Nat} {q : Queue} :
    Queue.Ascending (e :: q) ↔ (∀ x ∈ q, e.1 ≤ x.1) ∧ Queue.Ascending q :=
  List.pairwise_cons

theorem Queue.Ascending.filter {q : Queue} (hq : q.Ascending) (keep : Nat × Nat → Bool) :
    Queue.Ascending (q.filter keep) :=
  List.Pairwise.filter keep hq

/-- The entries of priority <= p are a prefix: behind a greater priority stand only greater ones. -/
theorem Queue.Ascending.eq_filter_append_filter {q : Queue} (hq : q.Ascending) (prio : Nat) :
    q = q.filter (fun e => decide (e.1 ≤ prio)) ++ q.filter (fun e => decide (prio < e.1)) := by
  induction q with
  | nil => rfl
  | cons e q ih =>
    obtain ⟨hfirst, hrest⟩ := Queue.ascending_cons.1 hq
    by_cases hle : e.1 ≤ prio
    case pos => simpa [hle, Nat.not_lt.2 hle] using ih hrest
    case neg =>
      have hgreater : ∀ x ∈ e :: q, prio < x.1 :=
        List.forall_mem_cons.2 ⟨Nat.lt_of_not_le hle, fun x hx => (Nat.lt_of_not_le hle).trans_le (hfirst x hx)⟩
      rw [List.filter_eq_nil_iff.2 fun x hx => by simpa using hgreater x hx,
        List.filter_eq_self.2 fun x hx => by simpa using hgreater x hx, List.nil_append]

/-- An entry may stand between two ascending queues of priorities at most and at least its own. -/
theorem Queue.ascending_append_cons {front back : Queue} {e : Nat × Nat} (hfront : front.Ascending)
    (hback : back.Ascending) (hle : ∀ x ∈ front, x.1 ≤ e.1) (hge : ∀ x ∈ back, e.1 ≤ x.1) :
    Queue.Ascending (front ++ e :: back) :=
  List.pairwise_append.2 ⟨hfront, Queue.ascending_cons.2 ⟨hge, hback⟩,
    fun x hx => List.forall_mem_cons.2 ⟨hle x hx, fun y hy => (hle x hx).trans (hge y hy)⟩⟩

/-! ## Enqueue -/

/-- R181: the new entry stands after every entry of priority <= p, those of equal priority included. -/
theorem enqueue_of_ascending {q : Queue} (hq : q.Ascending) (prio v : Nat) :
    enqueue prio v q =
      q.filter (fun e => decide (e.1 ≤ prio)) ++ (prio, v) :: q.filter (fun e => decide (prio < e.1)) := by
  have hsplit := hq.eq_filter_append_filter prio
  have htake := congrArg (List.take (q.filter fun e => decide (e.1 ≤ prio)).length) hsplit
  have hdrop := congrArg (List.drop (q.filter fun e => decide (e.1 ≤ prio)).length) hsplit
  rw [List.take_left] at htake
  rw [List.drop_left] at hdrop
  simp only [enqueue, htake, hdrop]

/-- R180: Enqueue keeps the queue ascending. -/
theorem enqueue_ascending {q : Queue} (hq : q.Ascending) (prio v : Nat) : Queue.Ascending (enqueue prio v q) := by
  rw [enqueue_of_ascending hq]
  refine Queue.ascending_append_cons (hq.filter _) (hq.filter _) (fun x hx => ?_) (fun x hx => ?_)
  · exact of_decide_eq_true (List.mem_filter.1 hx).2
  · exact Nat.le_of_lt (of_decide_eq_true (List.mem_filter.1 hx).2)

/-! ## Pop -/

@[simp] theorem pop_cons (e : Nat × Nat) (q : Queue) : pop (e :: q) = some (e, q) := rfl

/-- Settles O27: on an ascending queue the cut of Enqueue separates the priorities <= p from the greater ones, and Pop
takes the head, which is below the rest. -/
theorem queueIsStableAndAscending : Obligations.QueueIsStableAndAscending := by
  refine fun prio v q hq => ⟨enqueue_of_ascending hq prio v, enqueue_ascending hq prio v, ?_⟩
  rintro e rest rfl
  obtain ⟨hfirst, hrest⟩ := Queue.ascending_cons.1 hq
  exact ⟨pop_cons e rest, hrest, hfirst⟩

end Sys2Proof.Machine
end

section
/-! PROOFS. 44_code_tables.md: BuildReverse, its checks in their order (R225) and the inverse it returns (R226). -/

namespace Sys2Proof.Machine

/-! ## The checks in the spec's terms -/

theorem properPrefix_iff {s t : Bits} : properPrefix s t = true ↔ s <+: t ∧ s ≠ t := by
  simp [properPrefix]

theorem repeats_iff {α : Type} [DecidableEq α] {l : List α} : repeats l = true ↔ ¬l.Nodup := by
  induction l with
  | nil => simp [repeats]
  | cons a l ih => simp only [repeats, Bool.or_eq_true, decide_eq_true_eq, ih, List.nodup_cons, not_and_or, not_not]

theorem raiseIf_bind {α : Type} {c : Prop} [Decidable c] (e : Err) (f : Unit → Result α) :
    (raiseIf c e >>= f) = if c then raise e else f () := by
  by_cases h : c <;> simp [h]

/-- R225: the cascade of BuildReverse, each condition as the spec words it. -/
theorem buildReverse_eq_ite (p : Params) (E : Codes) :
    buildReverse p E =
      if E = [] then raise .emptyTable
      else if E.length > p.maxSymbols then raise .capSymbols
      else if ∃ e ∈ E, e.2.length > p.maxCodeLen then raise .capCodeLen
      else if ¬(E.map (·.1)).Nodup then raise .dupKey
      else if ¬(E.map (·.2)).Nodup then raise .notInjective
      else if ∃ a ∈ E, ∃ b ∈ E, a.2 <+: b.2 ∧ a.2 ≠ b.2 then raise .notPrefixFree
      else .ok (invert E) := by
  simp only [buildReverse, raiseIf_bind, List.length_eq_zero_iff, repeats_iff, properPrefix_iff]

/-- An accepted table is one that passes every check, and what is returned is its inverse. -/
theorem buildReverse_eq_ok {p : Params} {E : Codes} {rev : RevTable} :
    buildReverse p E = .ok rev ↔
      E ≠ [] ∧ E.length ≤ p.maxSymbols ∧ (∀ e ∈ E, e.2.length ≤ p.maxCodeLen) ∧ (E.map (·.1)).Nodup ∧
        PrefixFree E ∧ rev = invert E := by
  simp only [buildReverse, bind_eq_ok, raiseIf_eq_ok, exists_const, repeats_iff, not_not, not_exists, not_and, not_lt,
    gt_iff_lt, List.length_eq_zero_iff, Bool.not_eq_true, Except.ok.injEq, PrefixFree, and_assoc, ne_eq,
    eq_comm (a := invert E)]

/-- Settles O32: the premises of each clause select its branch of the cascade. -/
theorem reverseTableChecksInOrder : Obligations.ReverseTableChecksInOrder := by
  intro p E
  have hcodeLen : (∀ e ∈ E, e.2.length ≤ p.maxCodeLen) → ¬∃ e ∈ E, e.2.length > p.maxCodeLen :=
    fun hlen ⟨e, he, hgt⟩ => Nat.not_lt.2 (hlen e he) hgt
  rw [buildReverse_eq_ite]
  refine ⟨fun hempty => ?empty, fun hne hsyms => ?symbols, fun hne hsyms hlen => ?codeLen,
    fun hne hsyms hlen hkeys => ?dupKey, fun hne hsyms hlen hkeys hcodes => ?notInjective,
    fun hne hsyms hlen hkeys hcodes hprefix => ?notPrefixFree, fun hne hsyms hlen hkeys hcodes hprefix => ?accepted⟩
  case empty => rw [if_pos hempty]
  case symbols => rw [if_neg hne, if_pos hsyms]
  case codeLen => rw [if_neg hne, if_neg hsyms.not_gt, if_pos hlen]
  case dupKey => rw [if_neg hne, if_neg hsyms.not_gt, if_neg (hcodeLen hlen), if_pos hkeys]
  case notInjective =>
    rw [if_neg hne, if_neg hsyms.not_gt, if_neg (hcodeLen hlen), if_neg (not_not.2 hkeys), if_pos hcodes]
  case notPrefixFree =>
    rw [if_neg hne, if_neg hsyms.not_gt, if_neg (hcodeLen hlen), if_neg (not_not.2 hkeys), if_neg (not_not.2 hcodes),
      if_pos hprefix]
  case accepted =>
    rw [if_neg hne, if_neg hsyms.not_gt, if_neg (hcodeLen hlen), if_neg (not_not.2 hkeys), if_neg (not_not.2 hcodes),
      if_neg hprefix, invert]

/-! ## The inverse table -/

/-- In a list without repeated keys a lookup finds exactly the pairs of the list. -/
theorem lookup_eq_some_iff_mem {α β : Type} [BEq α] [LawfulBEq α] {l : List (α × β)} (h : (l.map (·.1)).Nodup)
    {k : α} {v : β} : l.lookup k = some v ↔ (k, v) ∈ l := by
  induction l with
  | nil => simp
  | cons e l ih =>
    obtain ⟨k', v'⟩ := e
    obtain ⟨hfresh, hrest⟩ := List.nodup_cons.1 h
    by_cases hk : k = k'
    case pos =>
      subst hk
      have hnot : (k, v) ∉ l := fun hmem => hfresh (List.mem_map_of_mem (f := (·.1)) hmem)
      simp [hnot, eq_comm]
    case neg => simp [List.lookup_cons, beq_false_of_ne hk, hk, ih hrest]

theorem mem_invert {E : Codes} {c : Bits} {x : Symbol} : (c, x) ∈ invert E ↔ (x, c) ∈ E := by
  simp [invert]

theorem invert_map_fst (E : Codes) : (invert E).map (·.1) = E.map (·.2) := by
  simp [invert]

/-- R226: with distinct codes, the inverse table gives a symbol for a code exactly when they stand in one entry. -/
theorem symbolOf_invert {E : Codes} (hcodes : (E.map (·.2)).Nodup) {c : Bits} {x : Symbol} :
    (invert E).symbolOf c = some x ↔ (x, c) ∈ E :=
  (lookup_eq_some_iff_mem (invert_map_fst E ▸ hcodes)).trans mem_invert

/-- Settles O31: distinct codes make the lookup exact, and distinct symbols leave one code to each. -/
theorem reverseTableIsTheInverse : Obligations.ReverseTableIsTheInverse := by
  intro p E rev hrev
  obtain ⟨-, -, -, hkeys, ⟨hcodes, -⟩, rfl⟩ := buildReverse_eq_ok.1 hrev
  refine ⟨fun c x => symbolOf_invert hcodes, fun c d x hc hd => ?_⟩
  have hcE : (x, c) ∈ E := (symbolOf_invert hcodes).1 hc
  have hdE : (x, d) ∈ E := (symbolOf_invert hcodes).1 hd
  exact congrArg Prod.snd (List.inj_on_of_nodup_map hkeys hcE hdE rfl)

end Sys2Proof.Machine
end

section
/-! PROOFS. 45_bit_packer.md: the bits of a byte sequence (30_encoding.md R115), and Unpack's checks in their order and
the bits it returns (R245, R246). -/

namespace Sys2Proof.Machine

/-! ## Bits within bytes (00_scope.md R14, 30_encoding.md R115) -/

@[simp] theorem byteToBits_length (b : Byte) : (byteToBits b).length = 8 := rfl

/-- Most significant bit first: position i of a byte's bits is bit 7 - i. -/
theorem byteToBits_getElem? {i : Nat} (b : Byte) (h : i < 8) : (byteToBits b)[i]? = some (b.getLsbD (7 - i)) := by
  interval_cases i <;> rfl

@[simp] theorem bytesToBits_nil : bytesToBits [] = [] := rfl

@[simp] theorem bytesToBits_cons (b : Byte) (bs : List Byte) :
    bytesToBits (b :: bs) = byteToBits b ++ bytesToBits bs := rfl

@[simp] theorem bytesToBits_length (bs : List Byte) : (bytesToBits bs).length = 8 * bs.length := by
  induction bs with
  | nil => rfl
  | cons b bs ih => rw [bytesToBits_cons, List.length_append, byteToBits_length, ih, List.length_cons]; omega

/-- R115: bit j of a byte sequence is bit 7 - (j mod 8) of byte j div 8, and there is none past the last byte. -/
theorem bytesToBits_getElem? (bs : List Byte) (j : Nat) :
    (bytesToBits bs)[j]? = bs[j / 8]?.map fun b => b.getLsbD (7 - j % 8) := by
  induction bs generalizing j with
  | nil => simp
  | cons b bs ih =>
    rw [bytesToBits_cons]
    by_cases hj : j < 8
    case pos =>
      rw [List.getElem?_append_left (by rwa [byteToBits_length]), byteToBits_getElem? b hj, Nat.div_eq_of_lt hj,
        Nat.mod_eq_of_lt hj]
      rfl
    case neg =>
      have hdiv : j / 8 = (j - 8) / 8 + 1 := by omega
      have hmod : j % 8 = (j - 8) % 8 := by omega
      rw [List.getElem?_append_right (by rw [byteToBits_length]; omega), byteToBits_length, ih (j - 8), hdiv, hmod,
        List.getElem?_cons_succ]

/-! ## Unpack -/

@[simp] theorem unpack_nil : unpack [] = raise .noPadding := rfl

/-- R245: the cascade of Unpack on a payload that has its padding byte. -/
theorem unpack_cons_eq_ite (pad : Byte) (packed : List Byte) :
    unpack (pad :: packed) =
      if pad.toNat > 7 then raise .padRange
      else if pad.toNat > 8 * packed.length then raise .padExceeds
      else .ok ((bytesToBits packed).take (8 * packed.length - pad.toNat)) := by
  simp only [unpack, raiseIf_bind, bytesToBits_length]

/-- Settles O35: the premises of each clause select its branch of the cascade, and the accepted branch returns the
packed bits less the last `pad` of them, each standing where R115 places it. -/
theorem unpackChecksAndBits : Obligations.UnpackChecksAndBits := by
  refine ⟨unpack_nil, fun pad packed => ?_⟩
  rw [unpack_cons_eq_ite]
  refine ⟨fun hrange => ?padRange, fun hrange hexceeds => ?padExceeds, fun hrange hfits => ?accepted⟩
  case padRange => rw [if_pos hrange]
  case padExceeds => rw [if_neg hrange.not_gt, if_pos hexceeds]
  case accepted =>
    rw [if_neg hrange.not_gt, if_neg hfits.not_gt]
    have hlength : ((bytesToBits packed).take (8 * packed.length - pad.toNat)).length =
        8 * packed.length - pad.toNat := by simp
    refine ⟨_, rfl, hlength, fun j hj => ?_⟩
    rw [List.getElem?_take_of_lt (hlength ▸ hj), bytesToBits_getElem?]

end Sys2Proof.Machine
end

section
/-! PROOFS. 30_encoding.md: UTF-8 decoding inverts encoding whatever bytes follow (R108, R109). -/

namespace Sys2Proof.Machine

/-! ## The rows of well-formed sequences -/

@[simp] theorem beginsWithRow_nil (bs : List Byte) : beginsWithRow [] bs = true := rfl

theorem beginsWithRow_cons {r : Nat × Nat} {row : List (Nat × Nat)} {b : Byte} {bs : List Byte} :
    beginsWithRow (r :: row) (b :: bs) = true ↔ (r.1 ≤ b.toNat ∧ b.toNat ≤ r.2) ∧ beginsWithRow row bs = true := by
  simp [beginsWithRow]

/-- The first bytes of two different rows of R108 lie in disjoint ranges. -/
theorem utf8Rows_first_disjoint :
    ∀ row ∈ utf8Rows, ∀ row' ∈ utf8Rows, row = row' ∨
      ∃ r ∈ row.head?, ∃ r' ∈ row'.head?, r.2 < r'.1 ∨ r'.2 < r.1 := by
  simp [utf8Rows]

/-- The first byte of a sequence that begins with a row lies in the row's first range. -/
theorem beginsWithRow_head {row : List (Nat × Nat)} {bs : List Byte} (h : beginsWithRow row bs = true)
    {r : Nat × Nat} (hr : r ∈ row.head?) : ∃ b ∈ bs.head?, r.1 ≤ b.toNat ∧ b.toNat ≤ r.2 := by
  match row, bs with
  | (lo, hi) :: row, b :: bs =>
    obtain rfl : (lo, hi) = r := by simpa using hr
    exact ⟨b, rfl, (beginsWithRow_cons.1 h).1⟩
  | (_, _) :: _, [] => simp [beginsWithRow] at h
  | [], _ => simp at hr

/-- At most one row fits a byte sequence. -/
theorem beginsWithRow_unique {row row' : List (Nat × Nat)} (hrow : row ∈ utf8Rows) (hrow' : row' ∈ utf8Rows)
    {bs : List Byte} (h : beginsWithRow row bs = true) (h' : beginsWithRow row' bs = true) : row = row' := by
  obtain heq | ⟨r, hr, r', hr', hlt⟩ := utf8Rows_first_disjoint row hrow row' hrow'
  · exact heq
  · obtain ⟨b, hb, hlo, hhi⟩ := beginsWithRow_head h hr
    obtain ⟨b', hb', hlo', hhi'⟩ := beginsWithRow_head h' hr'
    obtain rfl : b = b' := Option.mem_unique hb hb'
    omega

/-- The head of a sequence that begins with a row of R108 is decoded by that row. -/
theorem utf8Head_of_row {row : List (Nat × Nat)} (hrow : row ∈ utf8Rows) {bs : List Byte}
    (h : beginsWithRow row bs = true) : utf8Head bs = some (utf8Value (bs.take row.length), row.length) := by
  unfold utf8Head
  cases hfind : utf8Rows.find? (fun row => beginsWithRow row bs) with
  | none => exact absurd h (List.find?_eq_none.1 hfind row hrow)
  | some found =>
    have hfound : beginsWithRow found bs = true := List.find?_some (p := (beginsWithRow · bs)) hfind
    rw [beginsWithRow_unique hrow (List.mem_of_find?_eq_some hfind) h hfound]

/-! ## The rows of encoded scalar values -/

/-- The condition of R108 over the natural numbers, where `omega` reads it. -/
theorem isScalar_iff {c : Nat} : isScalar c ↔ c ≤ 0xD7FF ∨ (0xE000 ≤ c ∧ c ≤ 0x10FFFF) := Iff.rfl

theorem utf8Encode_one {c : Nat} (h : c ≤ 0x7F) : utf8Encode c = [BitVec.ofNat 8 c] := if_pos h

theorem utf8Encode_two {c : Nat} (hlo : 0x80 ≤ c) (hhi : c ≤ 0x7FF) :
    utf8Encode c = [BitVec.ofNat 8 (0xC0 + c / 64), BitVec.ofNat 8 (0x80 + c % 64)] := by
  have h1 : ¬c ≤ 0x7F := by omega
  rw [utf8Encode, if_neg h1, if_pos hhi]

theorem utf8Encode_three {c : Nat} (hlo : 0x800 ≤ c) (hhi : c ≤ 0xFFFF) :
    utf8Encode c = [BitVec.ofNat 8 (0xE0 + c / 4096), BitVec.ofNat 8 (0x80 + c / 64 % 64),
      BitVec.ofNat 8 (0x80 + c % 64)] := by
  have h1 : ¬c ≤ 0x7F := by omega
  have h2 : ¬c ≤ 0x7FF := by omega
  rw [utf8Encode, if_neg h1, if_neg h2, if_pos hhi]

theorem utf8Encode_four {c : Nat} (hlo : 0x10000 ≤ c) :
    utf8Encode c = [BitVec.ofNat 8 (0xF0 + c / 262144), BitVec.ofNat 8 (0x80 + c / 4096 % 64),
      BitVec.ofNat 8 (0x80 + c / 64 % 64), BitVec.ofNat 8 (0x80 + c % 64)] := by
  have h1 : ¬c ≤ 0x7F := by omega
  have h2 : ¬c ≤ 0x7FF := by omega
  have h3 : ¬c ≤ 0xFFFF := by omega
  rw [utf8Encode, if_neg h1, if_neg h2, if_neg h3]

theorem beginsWithRow_encode_one {c : Nat} (h : c ≤ 0x7F) (rest : List Byte) :
    beginsWithRow [(0x00, 0x7F)] (utf8Encode c ++ rest) = true := by
  simp only [utf8Encode_one h, List.cons_append, beginsWithRow_cons, beginsWithRow_nil, BitVec.toNat_ofNat, and_true]
  omega

theorem beginsWithRow_encode_two {c : Nat} (hlo : 0x80 ≤ c) (hhi : c ≤ 0x7FF) (rest : List Byte) :
    beginsWithRow [(0xC2, 0xDF), (0x80, 0xBF)] (utf8Encode c ++ rest) = true := by
  simp only [utf8Encode_two hlo hhi, List.cons_append, beginsWithRow_cons, beginsWithRow_nil, BitVec.toNat_ofNat,
    and_true]
  omega

theorem beginsWithRow_encode_three {c : Nat} (hlo : 0x800 ≤ c) (hhi : c ≤ 0xFFFF) {r1 r2 : Nat × Nat}
    (h1 : r1.1 ≤ 0xE0 + c / 4096 ∧ 0xE0 + c / 4096 ≤ r1.2)
    (h2 : r2.1 ≤ 0x80 + c / 64 % 64 ∧ 0x80 + c / 64 % 64 ≤ r2.2) (rest : List Byte) :
    beginsWithRow [r1, r2, (0x80, 0xBF)] (utf8Encode c ++ rest) = true := by
  simp only [utf8Encode_three hlo hhi, List.cons_append, beginsWithRow_cons, beginsWithRow_nil, BitVec.toNat_ofNat,
    and_true]
  omega

theorem beginsWithRow_encode_four {c : Nat} (hlo : 0x10000 ≤ c) (hhi : c ≤ 0x10FFFF) {r1 r2 : Nat × Nat}
    (h1 : r1.1 ≤ 0xF0 + c / 262144 ∧ 0xF0 + c / 262144 ≤ r1.2)
    (h2 : r2.1 ≤ 0x80 + c / 4096 % 64 ∧ 0x80 + c / 4096 % 64 ≤ r2.2) (rest : List Byte) :
    beginsWithRow [r1, r2, (0x80, 0xBF), (0x80, 0xBF)] (utf8Encode c ++ rest) = true := by
  simp only [utf8Encode_four hlo, List.cons_append, beginsWithRow_cons, beginsWithRow_nil, BitVec.toNat_ofNat, and_true]
  omega

/-- R108: the second byte of a three-byte sequence is what keeps overlong forms and surrogates out. -/
theorem exists_row_encode_three {c : Nat} (hc : isScalar c) (hlo : 0x800 ≤ c) (hhi : c ≤ 0xFFFF) (rest : List Byte) :
    ∃ row ∈ utf8Rows, row.length = 3 ∧ beginsWithRow row (utf8Encode c ++ rest) = true := by
  rw [isScalar_iff] at hc
  obtain h | h | h | h : c ≤ 0xFFF ∨ (0x1000 ≤ c ∧ c ≤ 0xCFFF) ∨ (0xD000 ≤ c ∧ c ≤ 0xD7FF) ∨ 0xE000 ≤ c := by omega
  · exact ⟨[(0xE0, 0xE0), (0xA0, 0xBF), (0x80, 0xBF)], by simp [utf8Rows], rfl,
      beginsWithRow_encode_three hlo hhi (by omega) (by omega) rest⟩
  · exact ⟨[(0xE1, 0xEC), (0x80, 0xBF), (0x80, 0xBF)], by simp [utf8Rows], rfl,
      beginsWithRow_encode_three hlo hhi (by omega) (by omega) rest⟩
  · exact ⟨[(0xED, 0xED), (0x80, 0x9F), (0x80, 0xBF)], by simp [utf8Rows], rfl,
      beginsWithRow_encode_three hlo hhi (by omega) (by omega) rest⟩
  · exact ⟨[(0xEE, 0xEF), (0x80, 0xBF), (0x80, 0xBF)], by simp [utf8Rows], rfl,
      beginsWithRow_encode_three hlo hhi (by omega) (by omega) rest⟩

/-- R108: the second byte of a four-byte sequence keeps overlong forms and values above 0x10FFFF out. -/
theorem exists_row_encode_four {c : Nat} (hlo : 0x10000 ≤ c) (hhi : c ≤ 0x10FFFF) (rest : List Byte) :
    ∃ row ∈ utf8Rows, row.length = 4 ∧ beginsWithRow row (utf8Encode c ++ rest) = true := by
  obtain h | h | h : c ≤ 0x3FFFF ∨ (0x40000 ≤ c ∧ c ≤ 0xFFFFF) ∨ 0x100000 ≤ c := by omega
  · exact ⟨[(0xF0, 0xF0), (0x90, 0xBF), (0x80, 0xBF), (0x80, 0xBF)], by simp [utf8Rows], rfl,
      beginsWithRow_encode_four hlo hhi (by omega) (by omega) rest⟩
  · exact ⟨[(0xF1, 0xF3), (0x80, 0xBF), (0x80, 0xBF), (0x80, 0xBF)], by simp [utf8Rows], rfl,
      beginsWithRow_encode_four hlo hhi (by omega) (by omega) rest⟩
  · exact ⟨[(0xF4, 0xF4), (0x80, 0x8F), (0x80, 0xBF), (0x80, 0xBF)], by simp [utf8Rows], rfl,
      beginsWithRow_encode_four hlo hhi (by omega) (by omega) rest⟩

/-- R108: what a scalar value encodes to begins with the row of its length. -/
theorem exists_row_utf8Encode {c : Nat} (hc : isScalar c) (rest : List Byte) :
    ∃ row ∈ utf8Rows, row.length = (utf8Encode c).length ∧ beginsWithRow row (utf8Encode c ++ rest) = true := by
  have hmax : c ≤ 0x10FFFF := by rw [isScalar_iff] at hc; omega
  obtain h | ⟨hlo, hhi⟩ | ⟨hlo, hhi⟩ | hlo :
    c ≤ 0x7F ∨ (0x80 ≤ c ∧ c ≤ 0x7FF) ∨ (0x800 ≤ c ∧ c ≤ 0xFFFF) ∨ 0x10000 ≤ c := by omega
  · exact ⟨_, by simp [utf8Rows], by rw [utf8Encode_one h]; rfl, beginsWithRow_encode_one h rest⟩
  · exact ⟨_, by simp [utf8Rows], by rw [utf8Encode_two hlo hhi]; rfl, beginsWithRow_encode_two hlo hhi rest⟩
  · rw [show (utf8Encode c).length = 3 by rw [utf8Encode_three hlo hhi]; rfl]
    exact exists_row_encode_three hc hlo hhi rest
  · rw [show (utf8Encode c).length = 4 by rw [utf8Encode_four hlo]; rfl]
    exact exists_row_encode_four hlo hmax rest

/-- R109: the bit layout read backwards gives the scalar value it was written from. -/
theorem utf8Value_utf8Encode {c : Nat} (hc : isScalar c) : utf8Value (utf8Encode c) = c := by
  rw [isScalar_iff] at hc
  change (_ : Nat) = c
  obtain h | ⟨hlo, hhi⟩ | ⟨hlo, hhi⟩ | hlo :
    c ≤ 0x7F ∨ (0x80 ≤ c ∧ c ≤ 0x7FF) ∨ (0x800 ≤ c ∧ c ≤ 0xFFFF) ∨ 0x10000 ≤ c := by omega
  · simp only [utf8Encode_one h, utf8Value, BitVec.toNat_ofNat]
    omega
  · simp only [utf8Encode_two hlo hhi, utf8Value, BitVec.toNat_ofNat]
    omega
  · simp only [utf8Encode_three hlo hhi, utf8Value, BitVec.toNat_ofNat]
    omega
  · simp only [utf8Encode_four hlo, utf8Value, BitVec.toNat_ofNat]
    omega

/-- R108, R109: decoding at the head of an encoded scalar value returns it and its length, whatever follows. -/
theorem utf8Head_utf8Encode_append {c : Nat} (hc : isScalar c) (rest : List Byte) :
    utf8Head (utf8Encode c ++ rest) = some (c, (utf8Encode c).length) := by
  obtain ⟨row, hrow, hlength, hbegins⟩ := exists_row_utf8Encode hc rest
  rw [utf8Head_of_row hrow hbegins, hlength, List.take_left, utf8Value_utf8Encode hc]

/-- R108: an ASCII byte stands for itself, whatever follows. -/
theorem utf8Head_ascii {b : Byte} (h : b.toNat ≤ 0x7F) (rest : List Byte) : utf8Head (b :: rest) = some (b.toNat, 1) :=
  utf8Head_of_row (row := [(0x00, 0x7F)]) (by simp [utf8Rows]) (beginsWithRow_cons.2 ⟨⟨Nat.zero_le _, h⟩, rfl⟩)

end Sys2Proof.Machine
end

section
/-! PROOFS. 46_container.md: SplitContainer (R264), ParseTable on what SerializeTable writes (R260, R265), and the order
of the table's entries (R266). -/

namespace Sys2Proof.Machine

/-! ## SplitContainer and Frame -/

/-- R264: a container without its four header bytes. -/
theorem splitContainer_of_short {C : List Byte} (h : C.length < 4) : splitContainer C = raise .shortHeader := by
  match C with
  | [] | [_] | [_, _] | [_, _, _] => rfl
  | _ :: _ :: _ :: _ :: _ => simp only [List.length_cons] at h; omega

/-- R264: the header's length is checked against what follows the header. -/
theorem splitContainer_cons_eq_ite (b0 b1 b2 b3 : Byte) (rest : List Byte) :
    splitContainer (b0 :: b1 :: b2 :: b3 :: rest) =
      if be32 b0 b1 b2 b3 > rest.length then raise .tableLen
      else .ok (rest.take (be32 b0 b1 b2 b3), rest.drop (be32 b0 b1 b2 b3)) := rfl

/-- Settles O39: the premises of each clause select its branch, and the regions counted from the container's first byte
are those counted from the end of the header. -/
theorem splitContainerChecksAndRegions : Obligations.SplitContainerChecksAndRegions := by
  refine ⟨fun C hshort => splitContainer_of_short hshort, ?_⟩
  rintro b0 b1 b2 b3 rest N hN
  have hbe32 : be32 b0 b1 b2 b3 = N := hN.symm
  rw [splitContainer_cons_eq_ite, hbe32]
  refine ⟨fun htoolong => if_pos htoolong, fun hfits => ?_⟩
  rw [if_neg hfits.not_gt, Nat.add_comm 4 N]
  rfl

/-- R262, R104: the header, read big-endian, is the length it was written from. -/
theorem be32_lengthField {N : Nat} (h : N < 2 ^ 32) :
    be32 (BitVec.ofNat 8 (N / 2 ^ 24)) (BitVec.ofNat 8 (N / 2 ^ 16)) (BitVec.ofNat 8 (N / 2 ^ 8)) (BitVec.ofNat 8 N) =
      N := by
  simp only [be32, BitVec.toNat_ofNat]
  omega

/-- R268: SplitContainer returns the two regions Frame joined. -/
theorem splitContainer_frame {text : List Byte} (h : text.length < 2 ^ 32) (payload : List Byte) :
    splitContainer (frame text payload) = .ok (text, payload) := by
  simp only [frame, lengthField, List.cons_append, List.nil_append]
  rw [splitContainer_cons_eq_ite, be32_lengthField h, if_neg (by simp), List.take_left, List.drop_left]

/-! ## One key -/

@[simp] theorem expect_cons_self (b : Byte) (t : List Byte) : expect b (b :: t) = some t := if_pos rfl

theorem expect_cons_of_ne {b x : Byte} (h : x ≠ b) (t : List Byte) : expect b (x :: t) = none := if_neg h

theorem keyChar_backslash (t : List Byte) : keyChar (chBackslash :: t) = escapeChar t := by
  rw [keyChar, if_pos rfl]

theorem keyChar_of_ne {x : Byte} (h : x ≠ chBackslash) (t : List Byte) : keyChar (x :: t) = literalChar (x :: t) :=
  if_neg h

/-- The bytes after the backslash of the short escapes differ from one another. -/
theorem shortEscapes_lookup_of_mem : ∀ e ∈ shortEscapes, shortEscapes.lookup e.1 = some e.2 := by decide

theorem escapeChar_short {e : Byte × Symbol} (he : e ∈ shortEscapes) (rest : List Byte) :
    escapeChar (e.1 :: rest) = some (e.2, rest) := by
  simp only [escapeChar, shortEscapes_lookup_of_mem e he]

/-- R111, R112: the two hex digits of a control character without a short escape are ones that `uesc` accepts. -/
theorem hexDigits_of_control : ∀ c < 0x20, (shortEscapes.find? fun e => e.2 == c) = none →
    (hexDigit (c / 16) = chZero ∨ hexDigit (c / 16) = chOne) ∧ hexVal (hexDigit (c / 16)) = some (c / 16) ∧
      hexVal (hexDigit (c % 16)) = some (c % 16) ∧ hasShortEscape c = false := by decide

theorem escapeChar_chU (t : List Byte) : escapeChar (chU :: t) = unicodeEscape t := rfl

/-- R111, R112: a control character without a short escape is read back from its two hex digits. -/
theorem escapeChar_unicode {c : Nat} (hc : c < 0x20) (hshort : (shortEscapes.find? fun e => e.2 == c) = none)
    (rest : List Byte) :
    escapeChar (chU :: chZero :: chZero :: hexDigit (c / 16) :: hexDigit (c % 16) :: rest) = some (c, rest) := by
  obtain ⟨hhigh, hhighVal, hlowVal, hlong⟩ := hexDigits_of_control c hc hshort
  simp only [escapeChar_chU, unicodeEscape, hhigh, and_self, if_true, hhighVal, hlowVal, Nat.div_add_mod, hlong,
    Bool.false_eq_true, if_false]

/-- R110, R265: a printable character that needs no escape is read as a literal; its first byte is no backslash, since
that byte would stand for itself. -/
theorem keyChar_of_utf8Head {X : List Byte} {c k : Nat} (h : utf8Head X = some (c, k))
    (hliteral : 0x20 ≤ c ∧ c ≠ 0x22 ∧ c ≠ 0x5C) : keyChar X = some (c, X.drop k) := by
  match X with
  | [] => exact absurd h (by simp [utf8Head, utf8Rows, beginsWithRow])
  | x :: t =>
    have hne : x ≠ chBackslash := by
      rintro rfl
      rw [utf8Head_ascii (by decide)] at h
      exact hliteral.2.2 (congrArg Prod.fst (Option.some.inj h)).symm
    simp only [keyChar_of_ne hne, literalChar, h]
    exact if_pos hliteral

/-- R265 on R111: KeyChar reads back what EscapeKey wrote. -/
theorem keyChar_escapeKey {c : Symbol} (hc : isScalar c) (rest : List Byte) :
    keyChar (escapeKey c ++ rest) = some (c, rest) := by
  unfold escapeKey
  cases hfind : shortEscapes.find? fun e => e.2 == c with
  | some e =>
    have hvalue : e.2 = c := by simpa using List.find?_some hfind
    exact hvalue ▸ (keyChar_backslash _).trans (escapeChar_short (List.mem_of_find?_eq_some hfind) rest)
  | none =>
    by_cases hcontrol : c < 0x20
    case pos =>
      simp only [if_pos hcontrol, List.cons_append, List.nil_append]
      exact (keyChar_backslash _).trans (escapeChar_unicode hcontrol hfind rest)
    case neg =>
      have hunescaped : c ≠ 0x22 ∧ c ≠ 0x5C := by
        constructor <;> rintro rfl <;> exact absurd hfind (by decide)
      have hread := keyChar_of_utf8Head (utf8Head_utf8Encode_append hc rest) ⟨Nat.not_lt.1 hcontrol, hunescaped⟩
      rw [List.drop_left] at hread
      simp only [if_neg hcontrol, hread]

/-! ## One entry -/

/-- R265 on R113: the code's bits end at the quote that follows them. -/
theorem takeCode_codeText (code : Bits) (rest : List Byte) :
    takeCode (codeText code ++ chQuote :: rest) = (code, chQuote :: rest) := by
  induction code with
  | nil => rfl
  | cons b code ih =>
    have hcons : codeText (b :: code) ++ chQuote :: rest =
      (if b then chOne else chZero) :: (codeText code ++ chQuote :: rest) := rfl
    rw [hcons]
    cases b <;> simp [takeCode, ih, chOne, chZero]

/-- R265 on R260: an entry with a scalar key and a non-empty code is read back, and the text after it is left. -/
theorem parseEntry_entryText {e : Symbol × Bits} (hkey : isScalar e.1) (hcode : e.2 ≠ []) (rest : List Byte) :
    parseEntry (entryText e ++ rest) = some (e, rest) := by
  have hkeyChar := keyChar_escapeKey hkey
  simp [parseEntry, entryText, hkeyChar, takeCode_codeText, hcode]

/-! ## The entries and the table -/

theorem entriesText_cons_cons (e e' : Symbol × Bits) (es : Codes) :
    entriesText (e :: e' :: es) = entryText e ++ [chComma] ++ entriesText (e' :: es) := rfl

/-- The text of a non-empty list of entries begins with the quote of its first key. -/
theorem entriesText_cons_head (e : Symbol × Bits) (es : Codes) : ∃ t, entriesText (e :: es) = chQuote :: t := by
  cases es with
  | nil => exact ⟨_, rfl⟩
  | cons e' es => exact ⟨_, rfl⟩

/-- R265: the loop reads every entry and stops at the closing brace, if its passes suffice. -/
theorem parseEntries_entriesText {es : Codes} (hes : ∀ e ∈ es, isScalar e.1 ∧ e.2 ≠ []) (hne : es ≠ [])
    (rest : List Byte) :
    ∀ {fuel : Nat}, es.length ≤ fuel →
      parseEntries fuel (entriesText es ++ chClose :: rest) = some (es, rest) := by
  induction es with
  | nil => exact absurd rfl hne
  | cons e es ih =>
    intro fuel hfuel
    obtain ⟨⟨hkey, hcode⟩, hrest⟩ := List.forall_mem_cons.1 hes
    obtain ⟨fuel, rfl⟩ : ∃ k, fuel = k + 1 := Nat.exists_eq_add_one.2 (Nat.zero_lt_of_lt hfuel)
    cases es with
    | nil =>
      have hcomma : expect chComma (chClose :: rest) = none := expect_cons_of_ne (by decide) rest
      simp [parseEntries, entriesText, parseEntry_entryText hkey hcode, hcomma]
    | cons e' es =>
      have ih := ih hrest (List.cons_ne_nil e' es) (Nat.le_of_succ_le_succ hfuel)
      simp [parseEntries, entriesText_cons_cons, parseEntry_entryText hkey hcode, ih]

/-- Every entry writes at least one byte, so the length of the text bounds the passes. -/
theorem length_le_length_entriesText (es : Codes) : es.length ≤ (entriesText es).length := by
  match es with
  | [] => simp
  | [e] => simp [entriesText, entryText]
  | e :: e' :: es =>
    have ih := length_le_length_entriesText (e' :: es)
    simp only [entriesText_cons_cons, List.length_append, List.length_cons, List.length_nil] at ih ⊢
    omega

/-- R268, R114: ParseTable reads back every table of scalar keys and non-empty codes, whatever its order. -/
theorem parseTable_serializeTable {es : Codes} (hes : ∀ e ∈ es, isScalar e.1 ∧ e.2 ≠ []) :
    parseTable (serializeTable es) = .ok es := by
  match es with
  | [] => rfl
  | e :: es =>
    have hparse : parseEntries (entriesText (e :: es) ++ [chClose]).length (entriesText (e :: es) ++ [chClose]) =
        some (e :: es, []) := by
      refine parseEntries_entriesText hes (List.cons_ne_nil e es) [] ?_
      exact (length_le_length_entriesText (e :: es)).trans (by simp)
    have hclose : expect chClose (entriesText (e :: es) ++ [chClose]) = none := by
      obtain ⟨t, ht⟩ := entriesText_cons_head e es
      rw [ht]
      exact expect_cons_of_ne (by decide) _
    have htable : serializeTable (e :: es) = chOpen :: (entriesText (e :: es) ++ [chClose]) := rfl
    simp only [parseTable, parseTableText, htable, expect_cons_self, Option.bind_eq_bind, Option.bind_some, hclose,
      hparse, orRaise_some]

/-! ## The order of the entries -/

/-- The commas of a table are one fewer than its entries. -/
theorem length_entriesText (es : Codes) :
    (entriesText es).length = (es.map fun e => (entryText e).length).sum + (es.length - 1) := by
  match es with
  | [] => rfl
  | [e] => simp [entriesText]
  | e :: e' :: es =>
    rw [entriesText_cons_cons, List.length_append, List.length_append, length_entriesText (e' :: es)]
    simp only [List.map_cons, List.sum_cons, List.length_cons, List.length_nil]
    omega

theorem length_serializeTable_of_perm {E E' : Codes} (h : E.Perm E') :
    (serializeTable E).length = (serializeTable E').length := by
  simp only [serializeTable, List.length_append, length_entriesText, h.length_eq,
    (h.map fun e => (entryText e).length).sum_eq]

/-- R225's checks do not depend on the order of the entries. -/
theorem buildReverse_of_perm {E E' : Codes} (h : E.Perm E') (p : Params) :
    buildReverse p E' = (buildReverse p E).map fun _ => invert E' := by
  have hempty : E = [] ↔ E' = [] := ⟨fun hE => (hE ▸ h).nil_eq.symm, fun hE' => (hE' ▸ h).eq_nil⟩
  simp only [buildReverse_eq_ite, hempty, h.length_eq, h.mem_iff, (h.map _).nodup_iff]
  split_ifs <;> rfl

/-- R226: REV as a map is the same for every order of an accepted table's entries. -/
theorem symbolOf_invert_of_perm {E E' : Codes} (h : E.Perm E') (hcodes : (E.map (·.2)).Nodup) (c : Bits) :
    (invert E).symbolOf c = (invert E').symbolOf c := by
  refine Option.ext fun x => ?_
  rw [symbolOf_invert hcodes, symbolOf_invert ((h.map _).nodup_iff.1 hcodes), h.mem_iff]

theorem hasLonger_invert_of_perm {E E' : Codes} (h : E.Perm E') (c : Bits) :
    (invert E).hasLonger c = (invert E').hasLonger c :=
  (h.map _).any_eq

/-- R290: decoding consults a reverse table only through REV[c] and the proper prefixes of its codes. -/
theorem decodeFrom_congr {rev rev' : RevTable} (hsymbol : ∀ c, rev.symbolOf c = rev'.symbolOf c)
    (hlonger : ∀ c, rev.hasLonger c = rev'.hasLonger c) (p : Params) (S : Bits) :
    ∀ (acc : Bits) (out : List Byte), decodeFrom p rev S acc out = decodeFrom p rev' S acc out := by
  induction S with
  | nil => exact fun _ _ => rfl
  | cons b S ih => intro acc out; simp only [decodeFrom, hsymbol, hlonger, ih]

theorem decodeSymbols_of_perm {E E' : Codes} (h : E.Perm E') (hcodes : (E.map (·.2)).Nodup) (p : Params) (S : Bits) :
    decodeSymbols p S (invert E) = decodeSymbols p S (invert E') :=
  decodeFrom_congr (symbolOf_invert_of_perm h hcodes) (hasLonger_invert_of_perm h) p S [] []

/-- DECOMPRESS of a framed table text, from its third stage on (40_commands.md R144). -/
theorem decompressBlob_frame_serializeTable {E : Codes} (hE : ∀ e ∈ E, isScalar e.1 ∧ e.2 ≠ [])
    (hlength : (serializeTable E).length < 2 ^ 32) (p : Params) (payload : List Byte) :
    decompressBlob p (frame (serializeTable E) payload) =
      (buildReverse p E >>= fun rev => unpack payload >>= fun bits => decodeSymbols p bits rev) := by
  simp only [decompressBlob, splitContainer_frame hlength, parseTable_serializeTable hE, ok_bind]

/-- Settles O44: both texts parse to their lists; BuildReverse gives both the same error, or accepts both, and then both
reverse tables are the same map, which is all that decoding reads. -/
theorem entryOrderHasNoEffect : Obligations.EntryOrderHasNoEffect := by
  intro p E E' payload hperm hE hlength
  have hE' : ∀ e ∈ E', isScalar e.1 ∧ e.2 ≠ [] := fun e he => hE e (hperm.mem_iff.2 he)
  refine ⟨parseTable_serializeTable hE', ?_⟩
  rw [decompressBlob_frame_serializeTable hE hlength,
    decompressBlob_frame_serializeTable hE' (length_serializeTable_of_perm hperm ▸ hlength),
    buildReverse_of_perm hperm]
  cases hrev : buildReverse p E with
  | error e => rfl
  | ok rev =>
    obtain ⟨-, -, -, -, ⟨hcodes, -⟩, rfl⟩ := buildReverse_eq_ok.1 hrev
    exact congrArg (unpack payload >>= ·) (funext (decodeSymbols_of_perm hperm hcodes p))

end Sys2Proof.Machine
end

section
/-! PROOFS. 47_symbol_decoder.md R294: the payload of one byte 0x00 decodes to the empty text, and COMPRESS never writes
it: a text has a first symbol, no code of GenCodes is empty, so there is a bit to pack. -/

namespace Sys2Proof.Machine

/-! ## The size of a packed payload (45_bit_packer.md R244) -/

@[simp] theorem bitsToBytes_length (bits : Bits) : (bitsToBytes bits).length = bits.length / 8 := by
  induction bits using bitsToBytes.induct with
  | case1 b0 b1 b2 b3 b4 b5 b6 b7 rest ih => simp only [bitsToBytes, List.length_cons, ih]; omega
  | case2 bits hshort =>
    match bits with
    | [] | [_] | [_, _] | [_, _, _] | [_, _, _, _] | [_, _, _, _, _] | [_, _, _, _, _, _] | [_, _, _, _, _, _, _] =>
      simp [bitsToBytes]
    | b0 :: b1 :: b2 :: b3 :: b4 :: b5 :: b6 :: b7 :: rest => exact absurd rfl (hshort b0 b1 b2 b3 b4 b5 b6 b7 rest)

/-- R244: the padding byte, and one byte for every eight bits, the last of them filled up. -/
theorem pack_length (bits : Bits) : (pack bits).length = 1 + (bits.length + 7) / 8 := by
  simp only [pack, padCount, List.length_cons, bitsToBytes_length, List.length_append, List.length_replicate]
  omega

/-! ## The symbols of a text (41_text_and_frequency.md R161) -/

/-- The pass of ScanAndCount only adds symbols at the end of those it has. -/
theorem isPrefix_of_scanFrom {p : Params} {syms' : List Symbol} {freq' : Freq} (T : List Byte) :
    ∀ {skip : Nat} {syms : List Symbol} {freq : Freq}, scanFrom p skip T syms freq = .ok (syms', freq') →
      syms <+: syms' := by
  induction T with
  | nil =>
    intro skip syms freq h
    rw [scanFrom] at h
    cases h
    exact List.prefix_rfl
  | cons b T ih =>
    intro skip syms freq h
    cases skip with
    | succ skip => exact ih h
    | zero =>
      rw [scanFrom] at h
      split at h
      · exact absurd h (raise_ne_ok _ _)
      · split at h
        · cases h
        · exact (List.prefix_append _ _).trans (ih h)

/-- A text with a first byte has a first symbol. -/
theorem scanAndCount_ne_nil {p : Params} {T : List Byte} {syms : List Symbol} {freq : Freq} (hT : T ≠ [])
    (h : scanAndCount p T = .ok (syms, freq)) : syms ≠ [] := by
  obtain ⟨b, T, rfl⟩ := List.exists_cons_of_ne_nil hT
  rw [scanAndCount, scanFrom] at h
  split at h
  · exact absurd h (raise_ne_ok _ _)
  · split at h
    · cases h
    · exact (isPrefix_of_scanFrom T h).ne_nil (by simp)

/-! ## No code is empty (44_code_tables.md R220, R221) -/

/-- Walk only lengthens its path on the way down to a leaf. -/
theorem isPrefix_of_walk {nodes : Arena} (fuel : Nat) :
    ∀ {n : Nat} {path : Bits} {codes : Codes}, walk nodes fuel n path = .ok codes → ∀ e ∈ codes, path <+: e.2 := by
  induction fuel with
  | zero => intro n path codes h; exact absurd h (stuckAt_ne_ok _ _)
  | succ fuel ih =>
    intro n path codes h e he
    rw [walk] at h
    split at h
    case h_1 => exact absurd h (stuckAt_ne_ok _ _)
    case h_2 =>
      cases h
      rw [List.mem_singleton.1 he]
    case h_3 =>
      simp only [bind_eq_ok, Except.ok.injEq] at h
      obtain ⟨left, hleft, right, hright, rfl⟩ := h
      obtain hl | hr := List.mem_append.1 he
      · exact (List.prefix_append _ _).trans (ih hleft e hl)
      · exact (List.prefix_append _ _).trans (ih hright e hr)

/-- A root that is a leaf has the code "0"; under any other root a code starts with the edge out of it. -/
theorem genCodes_ne_nil {nodes : Arena} {root : Nat} {codes : Codes} (h : genCodes nodes root = .ok codes) :
    ∀ e ∈ codes, e.2 ≠ [] := by
  intro e he
  rw [genCodes] at h
  split at h
  case h_1 =>
    cases h
    rw [List.mem_singleton.1 he]
    exact List.cons_ne_nil _ _
  case h_2 f l r hroot =>
    obtain ⟨fuel, hfuel⟩ := Nat.exists_eq_add_one.2 (Nat.zero_lt_of_lt (List.getElem?_eq_some_iff.1 hroot).1)
    simp only [hfuel, walk, hroot, bind_eq_ok, Except.ok.injEq] at h
    obtain ⟨left, hleft, right, hright, rfl⟩ := h
    obtain hl | hr := List.mem_append.1 he
    · exact (isPrefix_of_walk fuel hleft e hl).ne_nil (by simp)
    · exact (isPrefix_of_walk fuel hright e hr).ne_nil (by simp)
  case h_3 => exact absurd h (stuckAt_ne_ok _ _)

/-! ## The payload of a blob COMPRESS made -/

/-- What a lookup finds stands in the list, under the key looked up. -/
theorem mem_of_lookup_eq_some {codes : Codes} {x : Symbol} {c : Bits} (h : codes.lookup x = some c) :
    (x, c) ∈ codes := by
  obtain ⟨l₁, l₂, rfl, -⟩ := List.lookup_eq_some_iff.1 h
  simp

/-- R240: the first symbol's code stands at the head of the bits. -/
theorem concatCodes_ne_nil {codes : Codes} {syms : List Symbol} {bits : Bits} (hcodes : ∀ e ∈ codes, e.2 ≠ [])
    (hsyms : syms ≠ []) (h : concatCodes codes syms = .ok bits) : bits ≠ [] := by
  obtain ⟨x, syms, rfl⟩ := List.exists_cons_of_ne_nil hsyms
  simp only [concatCodes, bind_eq_ok, Except.ok.injEq] at h
  obtain ⟨c, hc, rest, -, rfl⟩ := h
  cases hlookup : codes.lookup x with
  | none => rw [hlookup] at hc; exact absurd hc (stuckAt_ne_ok _ _)
  | some c' =>
    rw [hlookup] at hc
    cases hc
    exact List.append_ne_nil_of_left_ne_nil (hcodes _ (mem_of_lookup_eq_some hlookup)) rest

/-- R262, R264: under legal capacities the header counts the table text in full, so the payload region of a blob that
COMPRESS made is what it packed, and it packed at least one bit. -/
theorem compressText_payload {p : Params} {T blob text payload : List Byte} (hp : p.Legal)
    (hblob : compressText p T = .ok blob) (hsplit : splitContainer blob = .ok (text, payload)) :
    ∃ bits, bits ≠ [] ∧ payload = pack bits := by
  obtain ⟨hT, syms, freq, nodes, root, codes, bits, hscan, -, hgen, -, hbits, rfl, hfits⟩ := compressText_eq_ok hblob
  obtain ⟨-, ⟨-, hout⟩, -, -⟩ := hp
  have hlength : (serializeTable codes).length < 2 ^ 32 := by
    simp only [frame, List.length_append] at hfits
    omega
  rw [splitContainer_frame hlength] at hsplit
  cases hsplit
  exact ⟨bits, concatCodes_ne_nil (genCodes_ne_nil hgen) (scanAndCount_ne_nil hT hscan) hbits, rfl⟩

/-! ## The empty bit stream -/

/-- R245: a payload of the padding byte 0x00 alone holds no bits. -/
theorem unpack_zero : unpack [0x00#8] = .ok [] := rfl

@[simp] theorem decodeSymbols_nil (p : Params) (rev : RevTable) : decodeSymbols p [] rev = .ok [] := rfl

/-- Settles O43: the stages of DECOMPRESS run through to the empty bit stream, whose text is empty; and a payload that
COMPRESS packed holds a bit, so it is longer than the padding byte. -/
theorem emptyStreamDecodesToNothing : Obligations.EmptyStreamDecodesToNothing := by
  refine ⟨?decodes, ?neverMade⟩
  case decodes =>
    intro s text E rev hbusy hrst hop hinLen hlength hinput hparse hrev
    have hresult : s.commandResult = .ok [] := by
      rw [State.commandResult_of_le hinLen, hop, hinput]
      simp only [runOp, decompressBlob, splitContainer_frame hlength, hparse, hrev, unpack_zero, ok_bind,
        decodeSymbols_nil]
    exact ⟨(s.recordOutput []).retire, (engineTurn_of_busy hrst hbusy).trans (completion_of_ok hresult),
      rfl, rfl, rfl, rfl⟩
  case neverMade =>
    intro p T blob text payload hp hblob hsplit hzero
    obtain ⟨bits, hne, hpack⟩ := compressText_payload hp hblob hsplit
    have hone : (pack bits).length = 1 := by rw [← hpack, hzero]; rfl
    have hpos : 0 < bits.length := List.length_pos_of_ne_nil hne
    rw [pack_length] at hone
    omega

end Sys2Proof.Machine
end

section
/-! PROOFS. 60_exceptions.md: what a completion that ends in an error records, and that it leaves the offending input in
place (R312). -/

namespace Sys2Proof.Machine

@[simp] theorem State.inByte_recordError (s : State) (e : Err) (k : Nat) :
    (s.recordError e).inByte k = s.inByte k := rfl

@[simp] theorem State.inByte_retire (s : State) (k : Nat) : s.retire.inByte k = s.inByte k := rfl

/-- Settles O15: the completion records the error and retires; both keep IN_LEN, the stored bytes of IN_MEM and the draw
behind its unwritten ones, and no value of ERR is cut off at 32 bits. -/
theorem failedCompletionRecordsTheError : Obligations.FailedCompletionRecordsTheError := by
  intro s e hbusy hrst hraise
  refine ⟨(s.recordError e).retire, ?turn, ?errReg, rfl, rfl, rfl, rfl, ?inLen, ?inBytes⟩
  case turn => rw [engineTurn_of_busy hrst hbusy, completion_of_raise hraise]
  case errReg => rw [State.retire_errReg, State.recordError_errReg, Err.toNat_word]
  case inLen => rw [State.retire_inLen, State.recordError_inLen]
  case inBytes =>
    intro k
    rw [State.inByte_retire, State.inByte_recordError]

end Sys2Proof.Machine
end

section
/-! PROOFS. 30_encoding.md section 1: the decoder, the encoder and the opcode table agree (R100 to R102). The decoder
reads a word only through its two fields, so every claim about words is one about RSVD and the sixteen values of OP. -/

namespace Sys2Proof

/-! ## A word is its two fields (30_encoding.md R100) -/

theorem getLsbD_commandWord {i : Nat} (hi : i < 4) (rsvd : BitVec 28) (op : BitVec 4) :
    (commandWord rsvd op).getLsbD i = op.getLsbD i :=
  BitVec.getLsbD_append.trans (if_pos hi)

@[simp] theorem opField_commandWord (rsvd : BitVec 28) (op : BitVec 4) : opField (commandWord rsvd op) = op := by
  ext i hi
  rw [opField, BitVec.getElem_extractLsb', Nat.zero_add, getLsbD_commandWord hi, BitVec.getLsbD_eq_getElem hi]

@[simp] theorem rsvdField_commandWord (rsvd : BitVec 28) (op : BitVec 4) : rsvdField (commandWord rsvd op) = rsvd := by
  ext i hi
  have happend := BitVec.getLsbD_append (x := rsvd) (y := op) (i := 4 + i)
  rw [if_neg (by omega), Nat.add_sub_cancel_left] at happend
  rw [rsvdField, BitVec.getElem_extractLsb', ← BitVec.getLsbD_eq_getElem hi]
  exact happend

theorem commandWord_fields (w : Word) : commandWord (rsvdField w) (opField w) = w := by
  apply BitVec.eq_of_toNat_eq
  rw [commandWord, BitVec.toNat_append, toNat_rsvdField, toNat_opField, Nat.shiftLeft_eq, Nat.mul_comm,
    ← Nat.two_pow_add_eq_or_of_lt (Nat.mod_lt _ (by decide))]
  exact Nat.div_add_mod _ 16

theorem commandWord_inj {rsvd rsvd' : BitVec 28} {op op' : BitVec 4} :
    commandWord rsvd op = commandWord rsvd' op' ↔ rsvd = rsvd' ∧ op = op' := by
  constructor
  · intro h
    exact ⟨by simpa using congrArg rsvdField h, by simpa using congrArg opField h⟩
  · rintro ⟨rfl, rfl⟩
    rfl

theorem extractLsb'_commandWord {n : Nat} (hn : n ≤ 4) (rsvd : BitVec 28) (op : BitVec 4) :
    (commandWord rsvd op).extractLsb' 0 n = op.extractLsb' 0 n := by
  ext i hi
  simp [getLsbD_commandWord (Nat.lt_of_lt_of_le hi hn)]

/-- R102: the decoding order over the two fields of the word. -/
theorem decode_commandWord (rsvd : BitVec 28) (op : BitVec 4) :
    decode (commandWord rsvd op) =
      if op.getLsbD 3 then .illegalOp8F rsvd (op.extractLsb' 0 3)
      else if op.getLsbD 2 then .illegalOp47 rsvd (op.extractLsb' 0 2)
      else if op = 3#4 then .illegalOp3 rsvd
      else if rsvd ≠ 0#28 then .illegalBits rsvd (op.extractLsb' 0 2)
      else if op = 0#4 then .nop
      else if op = 1#4 then .compress
      else .decompress := by
  rw [decode, opField_commandWord, rsvdField_commandWord, getLsbD_commandWord (by decide),
    getLsbD_commandWord (by decide), extractLsb'_commandWord (by decide), extractLsb'_commandWord (by decide)]

/-! ## Decode and encode -/

/-- The OP bits that a row fixes and those it leaves open, put together and read back. -/
theorem op8F_bits : ∀ lo : BitVec 3, (1#1 ++ lo).getLsbD 3 = true ∧ (1#1 ++ lo).extractLsb' 0 3 = lo := by decide

theorem op47_bits : ∀ lo : BitVec 2,
    (1#2 ++ lo).getLsbD 3 = false ∧ (1#2 ++ lo).getLsbD 2 = true ∧ (1#2 ++ lo).extractLsb' 0 2 = lo := by decide

theorem opBits_bits : ∀ op : BitVec 2, op ≠ 3#2 →
    (0#2 ++ op).getLsbD 3 = false ∧ (0#2 ++ op).getLsbD 2 = false ∧ 0#2 ++ op ≠ 3#4 ∧
      (0#2 ++ op).extractLsb' 0 2 = op := by decide

/-- Settles O4: each row's word has the OP bits that select its branch of the decoder, and the branch reads the open
bits back. -/
theorem decodeOfEncode : Obligations.DecodeOfEncode := by
  intro i hi
  cases i with
  | nop => rfl
  | compress => rfl
  | decompress => rfl
  | illegalOp3 rsvd =>
    rw [encode, decode_commandWord]
    rfl
  | illegalOp47 rsvd lo =>
    obtain ⟨hbit3, hbit2, hlow⟩ := op47_bits lo
    rw [encode, decode_commandWord, hbit3, hbit2, hlow]
    rfl
  | illegalOp8F rsvd lo =>
    obtain ⟨hbit3, hlow⟩ := op8F_bits lo
    rw [encode, decode_commandWord, hbit3, hlow]
    rfl
  | illegalBits rsvd op =>
    simp only [Instr.WellFormed, Instr.wellFormed, Bool.and_eq_true, bne_iff_ne] at hi
    obtain ⟨hrsvd, hop⟩ := hi
    obtain ⟨hbit3, hbit2, hop3, hlow⟩ := opBits_bits op hop
    rw [encode, decode_commandWord, hbit3, hbit2, if_neg hop3, if_pos hrsvd, hlow]
    rfl

/-- Putting the open OP bits back under the bits the branch has tested gives OP. -/
theorem op8F_rebuild : ∀ op : BitVec 4, op.getLsbD 3 = true → 1#1 ++ op.extractLsb' 0 3 = op := by decide

theorem op47_rebuild : ∀ op : BitVec 4, ¬op.getLsbD 3 = true → op.getLsbD 2 = true →
    1#2 ++ op.extractLsb' 0 2 = op := by decide

theorem opBits_rebuild : ∀ op : BitVec 4, ¬op.getLsbD 3 = true → ¬op.getLsbD 2 = true → op ≠ 3#4 →
    0#2 ++ op.extractLsb' 0 2 = op ∧ op.extractLsb' 0 2 ≠ 3#2 := by decide

theorem op_eq_two : ∀ op : BitVec 4, ¬op.getLsbD 3 = true → ¬op.getLsbD 2 = true → op ≠ 3#4 → op ≠ 0#4 →
    op ≠ 1#4 → op = 2#4 := by decide

/-- Settles O5: each branch of the decoder keeps RSVD and the OP bits it has not tested, so the encoder has the whole
word. -/
theorem encodeOfDecode : Obligations.EncodeOfDecode := by
  intro w
  rw [← commandWord_fields w]
  generalize rsvdField w = rsvd, opField w = op
  rw [decode_commandWord]
  split_ifs with hbit3 hbit2 hop3 hrsvd hop0 hop1
  · exact ⟨rfl, by rw [encode, op8F_rebuild op hbit3]⟩
  · exact ⟨rfl, by rw [encode, op47_rebuild op hbit3 hbit2]⟩
  · exact ⟨rfl, by rw [encode, hop3]⟩
  · obtain ⟨hlow, hne⟩ := opBits_rebuild op hbit3 hbit2 hop3
    exact ⟨by simp [Instr.WellFormed, Instr.wellFormed, hrsvd, hne], by rw [encode, hlow]⟩
  · exact ⟨rfl, by rw [encode, hop0, not_not.1 hrsvd]⟩
  · exact ⟨rfl, by rw [encode, hop1, not_not.1 hrsvd]⟩
  · have hop2 := op_eq_two op hbit3 hbit2 hop3 hop0 hop1
    exact ⟨rfl, by rw [encode, hop2, not_not.1 hrsvd]⟩

/-! ## The opcode table -/

/-- A row that fixes the whole word. -/
theorem holds_of_full_mask {name : RowName} {rsvd : BitVec 28} {op o : BitVec 4} :
    (Row.mk name 0xFFFFFFFF#32 (commandWord 0#28 o)).holds (commandWord rsvd op) = decide (rsvd = 0#28 ∧ op = o) := by
  have hmask : commandWord rsvd op &&& 0xFFFFFFFF#32 = commandWord rsvd op := BitVec.and_allOnes
  rw [Row.holds, hmask, beq_eq_decide, decide_eq_decide, commandWord_inj]

/-- A row that fixes only bits of OP. -/
theorem holds_of_op_mask {name : RowName} {rsvd : BitVec 28} {op m o : BitVec 4} :
    (Row.mk name (commandWord 0#28 m) (commandWord 0#28 o)).holds (commandWord rsvd op) = decide (op &&& m = o) := by
  have hmask : commandWord rsvd op &&& commandWord 0#28 m = commandWord 0#28 (op &&& m) :=
    Laws.RowOfEncoding.commandWord_and_low rsvd op m
  rw [Row.holds, hmask, beq_eq_decide, decide_eq_decide, commandWord_inj]
  exact and_iff_right rfl

/-- The opcode table, its words written as fields. -/
theorem opcodeTable_eq : opcodeTable =
    [ ⟨.nop, 0xFFFFFFFF#32, commandWord 0#28 0#4⟩, ⟨.compress, 0xFFFFFFFF#32, commandWord 0#28 1#4⟩,
      ⟨.decompress, 0xFFFFFFFF#32, commandWord 0#28 2#4⟩, ⟨.illegalOp3, commandWord 0#28 0xF#4, commandWord 0#28 3#4⟩,
      ⟨.illegalOp47, commandWord 0#28 0xC#4, commandWord 0#28 4#4⟩,
      ⟨.illegalOp8F, commandWord 0#28 0x8#4, commandWord 0#28 8#4⟩,
      ⟨.illegalBits, commandWord 0#28 0#4, commandWord 0#28 0#4⟩ ] := by decide

/-- The search through the table over the two fields of the word. -/
theorem firstRow_commandWord (rsvd : BitVec 28) (op : BitVec 4) :
    firstRow (commandWord rsvd op) =
      if rsvd = 0#28 ∧ op = 0#4 then some .nop
      else if rsvd = 0#28 ∧ op = 1#4 then some .compress
      else if rsvd = 0#28 ∧ op = 2#4 then some .decompress
      else if op &&& 0xF#4 = 3#4 then some .illegalOp3
      else if op &&& 0xC#4 = 4#4 then some .illegalOp47
      else if op &&& 0x8#4 = 8#4 then some .illegalOp8F
      else some .illegalBits := by
  simp only [firstRow, opcodeTable_eq, List.find?_cons, holds_of_full_mask, holds_of_op_mask]
  split_ifs <;> simp [*]

theorem row_decode_commandWord (rsvd : BitVec 28) (op : BitVec 4) :
    (decode (commandWord rsvd op)).row =
      if op.getLsbD 3 then .illegalOp8F
      else if op.getLsbD 2 then .illegalOp47
      else if op = 3#4 then .illegalOp3
      else if rsvd ≠ 0#28 then .illegalBits
      else if op = 0#4 then .nop
      else if op = 1#4 then .compress
      else .decompress := by
  rw [decode_commandWord]
  split_ifs <;> rfl

/-- Settles O6: with RSVD 0 or not, the table and the decoder pick the same row for each of the sixteen values of OP. -/
theorem decodeIsFirstMatchingRow : Obligations.DecodeIsFirstMatchingRow := by
  intro w
  rw [← commandWord_fields w]
  generalize rsvdField w = rsvd, opField w = op
  rw [firstRow_commandWord, row_decode_commandWord]
  by_cases hrsvd : rsvd = 0#28
  · simp only [hrsvd]
    revert op
    decide
  · simp only [ne_eq, hrsvd]
    revert op
    decide

/-- Settles O3: the decoder run on the seven words. -/
theorem specWordsDecode : Obligations.SpecWordsDecode := by
  unfold Obligations.SpecWordsDecode
  decide

end Sys2Proof
end

section
/-! PROOFS. The machine as a whole: everything a step can do to the block, said once, and what follows from it: the
invariant (10_state.md sections 2, 3 and 6, 60_exceptions.md section 1), the frozen input (20_memory.md R85) and the
start of the engine (10_state.md R41). -/

namespace Sys2Proof.Machine

variable {s t : State}

/-! ## The cases of a step -/

/-- A host read after which the host only puts steps of its own back: the block differs in the draw counter alone. -/
theorem hostRead_quiet {a : Word} {n : Nat} {k : Word → State → State}
    (hk : ∀ v u, ∃ ins, k v u = { u with inputs := ins }) (h : hostRead a n k s = .next t) :
    ∃ d ins r, s.draws ≤ d ∧ t = { s with draws := d, inputs := ins, response := r } := by
  obtain ⟨v, u, hread, rfl⟩ := hostRead_cases h
  obtain ⟨ins, hins⟩ := hk v (u.respond (.value v))
  rw [hins]
  obtain rfl | ⟨-, rfl⟩ := memRead_state hread
  · exact ⟨_, ins, _, Nat.le_refl _, rfl⟩
  · exact ⟨_, ins, _, Nat.le_succ _, rfl⟩

theorem waitPoll_quiet {polls : Nat} (h : waitPoll polls s = .next t) :
    ∃ d ins r, s.draws ≤ d ∧ t = { s with draws := d, inputs := ins, response := r } := by
  refine hostRead_quiet (fun v u => ?_) h
  split
  · exact ⟨u.inputs, rfl⟩
  · exact ⟨_, rfl⟩

/-- Everything a host step can do to the block: a read changes nothing but the draw counter, a write is the host's own
or the last one of COPYOUT, and a WAIT may give the engine its turn. -/
theorem hostStep_cases {op : HostOp} (h : hostStep op s = .next t) :
    (∃ d ins r, s.draws ≤ d ∧ t = { s with draws := d, inputs := ins, response := r }) ∨
    (∃ a n v, (op = .write a n v ∨ a = inLenAddr) ∧ memWrite a n v (s.respond .written) = .next t) ∨
    ∃ ins, engineTurn { s with inputs := ins } = .next t := by
  cases op with
  | read a n => exact .inl (hostRead_quiet (fun _ u => ⟨u.inputs, rfl⟩) h)
  | write a n v => exact .inr (.inl ⟨a, n, v, .inl rfl, h⟩)
  | wait polls =>
    rw [hostStep] at h
    unfold hostWait at h
    split at h
    · exact .inr (.inr ⟨_, h⟩)
    · exact .inl (waitPoll_quiet h)
    · exact .inl (waitPoll_quiet h)
  | copyOut =>
    rw [hostStep] at h
    exact .inl (hostRead_quiet (fun _ _ => ⟨_, rfl⟩) h)
  | copyFrom i n =>
    rw [hostStep, hostCopyFrom] at h
    split at h
    · exact .inl (hostRead_quiet (fun _ _ => ⟨_, rfl⟩) h)
    · exact .inr (.inl ⟨inLenAddr, 4, _, .inr rfl, h⟩)

/-- Everything a step can do to the block: nothing but a draw, a bus write while rst is deasserted, the engine's turn,
or a level driven on the reset input. -/
theorem step_cases (h : step s = .next t) :
    (∃ d ins r, s.draws ≤ d ∧ t = { s with draws := d, inputs := ins, response := r }) ∨
    (s.rst = false ∧ ∃ a n v rest, (s.inputs = .host (.write a n v) :: rest ∨ a = inLenAddr) ∧
      memWrite a n v { s with inputs := rest, response := .written } = .next t) ∨
    (∃ ins, engineTurn { s with inputs := ins } = .next t) ∨
    ∃ level rest, s.inputs = .rst level :: rest ∧ t = State.driveRst level { s with inputs := rest } := by
  cases hin : s.inputs with
  | nil =>
    rw [step_of_nil hin] at h
    exact .inr (.inr (.inl ⟨s.inputs, h⟩))
  | cons i rest =>
    rw [step_of_cons hin] at h
    cases i with
    | host op =>
      rw [takeInput, hostTurn] at h
      split at h
      · exact .inl ⟨s.draws, rest, .silent, Nat.le_refl _, (Host.Outcome.next.inj h).symm⟩
      · next hrst =>
        obtain hquiet | ⟨a, n, v, hop, hwrite⟩ | hengine := hostStep_cases h
        · exact .inl hquiet
        · exact .inr (.inl ⟨Bool.eq_false_of_not_eq_true hrst, a, n, v, rest,
            hop.imp_left fun hop => by rw [hop], hwrite⟩)
        · exact .inr (.inr (.inl hengine))
    | engine => exact .inr (.inr (.inl ⟨rest, h⟩))
    | rst level => exact .inr (.inr (.inr ⟨level, rest, rfl, (Host.Outcome.next.inj h).symm⟩))

/-! ## The invariant -/

/-- Settles O54: the values of the reset state meet each clause. -/
theorem invariantAtReset : Obligations.InvariantAtReset where
  legal := by decide
  inMem := ⟨rfl, rfl⟩
  outMem := ⟨rfl, rfl⟩
  outLen := Nat.zero_le _
  errCode := rfl
  errNoOutput := nofun
  busy := nofun
  output := fun _ => rfl
  inReset := nofun
  fresh := ⟨Nat.zero_lt_one, Nat.zero_lt_one⟩

namespace State.Inv

theorem quiet (h : s.Inv) {d : Nat} (hd : s.draws ≤ d) (ins : List Input) (r : Response) :
    State.Inv { s with draws := d, inputs := ins, response := r } :=
  { h with fresh := ⟨h.fresh.1.trans_le hd, h.fresh.2.trans_le hd⟩ }

/-- Acceptance makes the BUSY values what the invariant asks for (40_commands.md R145). -/
theorem accept (h : s.Inv) (hrst : s.rst = false) (op : Op) : (s.accept op).Inv :=
  { h with
    outLen := Nat.zero_le _
    errCode := rfl
    errNoOutput := nofun
    busy := fun _ => ⟨rfl, rfl, rfl, rfl, rfl⟩
    output := nofun
    inReset := fun hr => absurd (hrst.symm.trans hr) Bool.false_ne_true }

/-- An illegal word leaves an error with no output (40_commands.md R142). -/
theorem recordError (h : s.Inv) (hidle : s.engine = .idle) (hrst : s.rst = false) (e : Err) : (s.recordError e).Inv :=
  { h with
    outMem := ⟨rfl, rfl⟩
    outLen := Nat.zero_le _
    errCode := ⟨e, rfl⟩
    errNoOutput := fun _ => rfl
    busy := fun hbusy => absurd (hidle.symm.trans hbusy) nofun
    output := fun _ => rfl
    inReset := fun hr => absurd (hrst.symm.trans hr) Bool.false_ne_true
    fresh := ⟨h.fresh.1.trans (Nat.lt_succ_self _), Nat.lt_succ_self _⟩ }

/-- A failed command leaves an error with no output (10_state.md R47). -/
theorem retire_recordError (h : s.Inv) (hrst : s.rst = false) (e : Err) : (s.recordError e).retire.Inv :=
  { h with
    outMem := ⟨rfl, rfl⟩
    outLen := Nat.zero_le _
    errCode := ⟨e, rfl⟩
    errNoOutput := fun _ => rfl
    busy := nofun
    output := fun _ => rfl
    inReset := fun hr => absurd (hrst.symm.trans hr) Bool.false_ne_true
    fresh := ⟨h.fresh.1.trans (by simp), by simp⟩ }

/-- A successful command leaves its output, and nothing else, specified (10_state.md R39, R47). -/
theorem retire_recordOutput (h : s.Inv) (hrst : s.rst = false) {out : List Byte}
    (hfits : out.length ≤ s.params.outBytes) : (s.recordOutput out).retire.Inv :=
  have hlen : (s.recordOutput out).retire.outLen.toNat = out.length := State.toNat_outLen_recordOutput h.legal hfits
  { h with
    outMem := ⟨Memory.wf_ofBytes 0 out, Memory.below_ofBytes out (by rwa [Nat.zero_add])⟩
    outLen := hlen.trans_le hfits
    errCode := rfl
    errNoOutput := nofun
    busy := nofun
    output := fun _ => by rw [hlen, List.range_eq_range']; exact Memory.map_fst_ofBytes out 0
    inReset := fun hr => absurd (hrst.symm.trans hr) Bool.false_ne_true
    fresh := ⟨h.fresh.1.trans (by simp), by simp⟩ }

/-- Reset leaves the reset values, whatever the level (70_reset_and_hazards.md R350). -/
theorem driveRst (h : s.Inv) (level : Bool) : (s.driveRst level).Inv := by
  obtain ⟨-, hdrive⟩ | ⟨-, -, hdrive⟩ := State.driveRst_cases level s <;> rw [hdrive]
  · exact
      { invariantAtReset with
        legal := h.legal
        inReset := fun _ => ⟨rfl, rfl⟩
        outLen := Nat.zero_le _
        fresh := ⟨Nat.lt_succ_self _, Nat.lt_succ_self _⟩ }
  · exact h

theorem setOvr (h : s.Inv) : s.setOvr.Inv := { h with }

theorem setWlock (h : s.Inv) : s.setWlock.Inv := { h with }

theorem writeCtrl (h : s.Inv) (hrst : s.rst = false) (v : Word) : (s.writeCtrl v).Inv :=
  { h with inReset := fun hr => absurd (hrst.symm.trans hr) Bool.false_ne_true }

/-- A write to STATUS only clears flags, and DONE is clear while BUSY already. -/
theorem writeStatus (h : s.Inv) (hrst : s.rst = false) (v : Word) : (s.writeStatus v).Inv :=
  { h with
    busy := fun hbusy => ⟨by simp [(h.busy hbusy).1], (h.busy hbusy).2⟩
    inReset := fun hr => absurd (hrst.symm.trans hr) Bool.false_ne_true }

theorem writeInLen (h : s.Inv) (v : Word) : (s.writeInLen v).Inv := by
  obtain ⟨-, hwrite⟩ | ⟨-, hwrite⟩ := State.writeInLen_cases v s <;> rw [hwrite]
  · exact { h with }
  · exact h.setWlock

/-- A store inside the IN window keeps IN_MEM canonical and inside P_IN_BYTES. -/
theorem storeIn (h : s.Inv) {off : Nat} {bs : List Byte} (hin : off + bs.length ≤ s.params.inBytes) :
    (s.storeIn off bs).Inv :=
  { h with inMem := ⟨Memory.wf_writeBytes bs off h.inMem.1, Memory.below_writeBytes bs off hin h.inMem.2⟩ }

theorem writeInWindow (h : s.Inv) {off n : Nat} (v : Word) (hin : off + n ≤ s.params.inBytes) :
    (s.writeInWindow off n v).Inv := by
  obtain ⟨-, hwrite⟩ | ⟨-, hwrite⟩ := State.writeInWindow_cases off n v s <;> rw [hwrite]
  · exact h.storeIn (by simpa using hin)
  · exact h.setWlock

theorem exec (h : s.Inv) (hrst : s.rst = false) {i : Instr} (ht : exec i s = .next t) : t.Inv := by
  obtain ⟨-, rfl⟩ | ⟨hidle, ⟨-, rfl⟩ | ⟨-, rfl⟩ | ⟨-, rfl⟩ | ⟨e, rfl⟩⟩ := exec_cases ht
  · exact h.setOvr
  · exact h
  · exact h.accept hrst .compress
  · exact h.accept hrst .decompress
  · exact h.recordError hidle hrst e

theorem memWrite (h : s.Inv) (hrst : s.rst = false) {a v : Word} {n : Nat} (ht : memWrite a n v s = .next t) :
    t.Inv := by
  obtain rfl | rfl | rfl | rfl | ⟨-, -, hexec⟩ | ⟨off, hregion, rfl⟩ := memWrite_cases ht
  · exact h
  · exact h.writeCtrl hrst v
  · exact h.writeStatus hrst v
  · exact h.writeInLen v
  · exact h.exec hrst hexec
  · obtain ⟨-, -, -, hin⟩ := regionOf_inWin hregion
    exact h.writeInWindow v hin

theorem engineTurn (h : s.Inv) (ht : engineTurn s = .next t) : t.Inv := by
  obtain ⟨-, rfl⟩ | ⟨hrst, -, ⟨out, hout, rfl⟩ | ⟨e, -, rfl⟩⟩ := engineTurn_cases ht
  · exact h
  · exact h.retire_recordOutput hrst (State.commandResult_length_le hout)
  · exact h.retire_recordError hrst e

end State.Inv

/-- Settles O55: each of the four things a step can do keeps the invariant. -/
theorem stepKeepsTheInvariant : Obligations.StepKeepsTheInvariant := by
  intro s t h hstep
  obtain ⟨d, ins, r, hd, rfl⟩ | ⟨hrst, a, n, v, rest, -, hwrite⟩ | ⟨ins, hengine⟩ | ⟨level, rest, -, rfl⟩ :=
    step_cases hstep
  · exact h.quiet hd ins r
  · exact (h.quiet (Nat.le_refl _) rest .written).memWrite hrst hwrite
  · exact (h.quiet (Nat.le_refl _) ins s.response).engineTurn hengine
  · exact (h.quiet (Nat.le_refl _) rest s.response).driveRst level

end Sys2Proof.Machine
end

section
/-! PROOFS. The commands and the completion step: what a word leaves unchanged (40_commands.md R140 to R145), acceptance
followed by completion (R143, R144), the frame of completion (10_state.md R47), what a result depends on (R147), and the
order of the length errors (60_exceptions.md R314, R315). -/

namespace Sys2Proof.Machine

variable {s t : State}

/-! ## The frame of a command word -/

/-- While IDLE a word is NOP, one of the two codec commands, or one that records an error. -/
theorem idleEffect_cases (i : Instr) :
    (i = .nop ∧ Instr.idleEffect i = fun s => s) ∨
    (i = .compress ∧ Instr.idleEffect i = State.accept .compress) ∨
    (i = .decompress ∧ Instr.idleEffect i = State.accept .decompress) ∨
    ((i ≠ .nop ∧ i ≠ .compress ∧ i ≠ .decompress) ∧ ∃ e, Instr.idleEffect i = State.recordError e) := by
  cases i with
  | nop => exact .inl ⟨rfl, rfl⟩
  | compress => exact .inr (.inl ⟨rfl, rfl⟩)
  | decompress => exact .inr (.inr (.inl ⟨rfl, rfl⟩))
  | illegalOp3 => exact .inr (.inr (.inr ⟨⟨nofun, nofun, nofun⟩, .reservedOp, rfl⟩))
  | illegalOp47 => exact .inr (.inr (.inr ⟨⟨nofun, nofun, nofun⟩, .reservedOp, rfl⟩))
  | illegalOp8F => exact .inr (.inr (.inr ⟨⟨nofun, nofun, nofun⟩, .reservedOp, rfl⟩))
  | illegalBits => exact .inr (.inr (.inr ⟨⟨nofun, nofun, nofun⟩, .reservedBits, rfl⟩))

/-- Settles O11: BUSY sets OVR alone; while IDLE the effect of each row writes none of the fields named, and an illegal
word draws OUT_MEM afresh. -/
theorem commandFrame : Obligations.CommandFrame := by
  intro i s t h
  cases hengine : s.engine with
  | busy =>
    rw [exec_of_busy i hengine] at h
    cases h
    exact ⟨⟨rfl, rfl, rfl, rfl, rfl, rfl, rfl⟩, fun _ => rfl, .inr rfl, .inl rfl, fun _ _ => rfl, nofun⟩
  | idle =>
    rw [exec_of_idle i hengine] at h
    cases h
    obtain ⟨rfl, heffect⟩ | ⟨rfl, heffect⟩ | ⟨rfl, heffect⟩ | ⟨⟨hnop, hcompress, hdecompress⟩, e, heffect⟩ :=
      idleEffect_cases i <;> rw [heffect]
    · exact ⟨⟨rfl, rfl, rfl, rfl, rfl, rfl, rfl⟩, fun _ => rfl, .inl rfl, .inl rfl, fun _ _ => rfl,
        fun _ hne => absurd rfl hne⟩
    · exact ⟨⟨rfl, rfl, rfl, rfl, rfl, rfl, rfl⟩, fun _ => rfl, .inl rfl, .inr (.inl ⟨rfl, rfl⟩), fun _ _ => rfl,
        fun _ _ hne => absurd rfl hne⟩
    · exact ⟨⟨rfl, rfl, rfl, rfl, rfl, rfl, rfl⟩, fun _ => rfl, .inl rfl, .inr (.inr ⟨rfl, rfl⟩), fun _ _ => rfl,
        fun _ _ _ hne => absurd rfl hne⟩
    · exact ⟨⟨rfl, rfl, rfl, rfl, rfl, rfl, rfl⟩, fun _ => rfl, .inl rfl, .inl rfl, by simp [*],
        fun _ _ _ _ => s.outByte_recordError e⟩

/-! ## Completion -/

/-- Settles O16: completion writes OUT_MEM, its result and the working state only, and past OUT_LEN the bytes are those
of the new draw. -/
theorem completionFrame : Obligations.CompletionFrame := by
  intro s t h
  obtain ⟨hidle, rfl⟩ | ⟨-, -, ⟨out, hout, rfl⟩ | ⟨e, -, rfl⟩⟩ := engineTurn_cases h
  · refine ⟨⟨rfl, rfl, rfl, rfl, rfl, rfl, rfl, rfl, rfl⟩, fun _ => rfl, fun hbusy hrst => ?_⟩
    simp [hbusy, hrst] at hidle
  · refine ⟨⟨rfl, rfl, rfl, rfl, rfl, rfl, rfl, rfl, rfl⟩, fun _ => rfl, fun _ _ hlegal k hk => ?_⟩
    rw [State.retire_outLen, State.toNat_outLen_recordOutput hlegal (State.commandResult_length_le hout)] at hk
    rw [State.outByte_retire, s.outByte_recordOutput_of_le out k hk]
  · exact ⟨⟨rfl, rfl, rfl, rfl, rfl, rfl, rfl, rfl, rfl⟩, fun _ => rfl, fun _ _ _ k _ => s.outByte_recordError e k⟩

theorem engineTurn_of_ok {out : List Byte} (hbusy : s.engine = .busy) (hrst : s.rst = false)
    (h : s.commandResult = .ok out) : engineTurn s = .next (s.recordOutput out).retire :=
  (engineTurn_of_busy hrst hbusy).trans (completion_of_ok h)

theorem engineTurn_of_raise {e : Err} (hbusy : s.engine = .busy) (hrst : s.rst = false)
    (h : s.commandResult = raise e) : engineTurn s = .next (s.recordError e).retire :=
  (engineTurn_of_busy hrst hbusy).trans (completion_of_raise h)

/-- OUT[0 .. OUT_LEN) after a success is the output. -/
theorem State.outputBytes_retire_recordOutput (s : State) (out : List Byte) :
    (s.recordOutput out).retire.outputBytes out.length = out := by
  refine List.ext_getElem (by simp [State.outputBytes]) fun i _ hi => ?_
  simp [State.outputBytes, State.outByte_recordOutput s out i hi]

/-- A command whose function succeeds on the input is accepted, and the engine's step then commits the output
(40_commands.md R145, 10_state.md R47). -/
theorem exec_then_completion {i : Instr} {op : Op} {out : List Byte} (hi : Instr.idleEffect i = State.accept op)
    (hidle : s.engine = .idle) (hrst : s.rst = false) (hlegal : s.params.Legal)
    (hlen : s.inputLength ≤ s.params.inBytes) (hrun : runOp s.params op s.inputBytes = .ok out) :
    ∃ t u, exec i s = .next t ∧ engineTurn t = .next u ∧
      u.outLen.toNat = out.length ∧ u.outputBytes out.length = out ∧ out.length ≤ s.params.outBytes ∧
      u.errReg = 0#32 ∧ u.statusErr = false ∧ u.statusDone = true ∧ u.engine = .idle := by
  have hfits : out.length ≤ s.params.outBytes := runOp_length_le hrun
  have hresult : (s.accept op).commandResult = .ok out := (State.commandResult_of_le (s := s.accept op) hlen).trans hrun
  exact ⟨s.accept op, ((s.accept op).recordOutput out).retire, by rw [exec_of_idle i hidle, hi],
    engineTurn_of_ok rfl hrst hresult, State.toNat_outLen_recordOutput (s := s.accept op) hlegal hfits,
    State.outputBytes_retire_recordOutput _ out, hfits, rfl, rfl, rfl, rfl⟩

/-- Settles O13: acceptance keeps the input, so the completion runs Compress on it. -/
theorem compressWritesTheBlob : Obligations.CompressWritesTheBlob :=
  fun _ _ hidle hrst hlegal hlen hblob => exec_then_completion (i := .compress) rfl hidle hrst hlegal hlen hblob

/-- Settles O14: acceptance keeps the input, so the completion runs Decompress on it. -/
theorem decompressWritesTheText : Obligations.DecompressWritesTheText :=
  fun _ _ hidle hrst hlegal hlen htext => exec_then_completion (i := .decompress) rfl hidle hrst hlegal hlen htext

/-- Settles O18: the four values named are all that the result is computed from. -/
theorem resultDependsOnlyOnTheInput : Obligations.ResultDependsOnlyOnTheInput := by
  intro s t hparams hop hlen hbytes
  have hlength : s.inputLength = t.inputLength := congrArg BitVec.toNat hlen
  have hinput : s.inputBytes = t.inputBytes := by
    rw [State.inputBytes, State.inputBytes, ← hlength]
    exact List.map_congr_left fun k hk => hbytes k (List.mem_range.1 hk)
  rw [State.commandResult, State.commandResult, hparams, hop, hlength, hinput]

/-! ## The length errors -/

theorem compressText_nil (p : Params) : compressText p [] = raise .zeroLength := rfl

theorem decompressBlob_of_short {C : List Byte} (p : Params) (h : C.length < 4) :
    decompressBlob p C = raise .shortHeader := by
  rw [decompressBlob, splitContainer_of_short h, raise_bind]

/-- Settles O19: IN_LEN is checked before the command's function runs, and each function checks its length first. -/
theorem lengthErrorsComeFirst : Obligations.LengthErrorsComeFirst := by
  intro s hbusy hrst
  refine ⟨fun hlong => ?inLen, fun hlen hop hzero => ?zeroLength, fun hlen hop hshort => ?shortHeader⟩
  case inLen => exact ⟨_, engineTurn_of_raise hbusy hrst (State.commandResult_of_gt hlong), rfl⟩
  case zeroLength =>
    have hinput : s.inputBytes = [] := List.eq_nil_of_length_eq_zero (s.length_inputBytes.trans hzero)
    have hresult : s.commandResult = raise .zeroLength := by
      rw [State.commandResult_of_le hlen, hop, hinput, runOp, compressText_nil]
    exact ⟨_, engineTurn_of_raise hbusy hrst hresult, rfl⟩
  case shortHeader =>
    have hinput : s.inputBytes.length < 4 := s.length_inputBytes.trans_lt hshort
    have hresult : s.commandResult = raise .shortHeader := by
      rw [State.commandResult_of_le hlen, hop, runOp, decompressBlob_of_short _ hinput]
    exact ⟨_, engineTurn_of_raise hbusy hrst hresult, rfl⟩

end Sys2Proof.Machine
end

section
/-! PROOFS. The bus and the steps of the machine: accesses to the OUT window (20_memory.md R75, R79), writes to the CSRs
(10_state.md R22 to R37), the interrupt level (R43), reset (70_reset_and_hazards.md R350, R351), the write of a command
word, and what a step can do to the input and to ENG_STATE. -/

namespace Sys2Proof.Machine

variable {s t : State}

/-! ## Reads, and the OUT window -/

/-- Settles O50: a read returns the state itself or the one with the next draw. -/
theorem readsHaveNoSideEffect : Obligations.ReadsHaveNoSideEffect := by
  intro s t a v n h
  obtain rfl | ⟨-, rfl⟩ := memRead_state h
  · exact ⟨rfl, Nat.le_refl _⟩
  · exact ⟨rfl, Nat.le_succ _⟩

/-- Under legal capacities the IN window ends where the OUT window begins, so only OUT_MEM answers from there on. -/
theorem regionOf_of_outBase_le {p : Params} {a : Word} {n : Nat} (hperm : Permitted p a n) (hlegal : p.Legal)
    (hlow : 0x80000000 ≤ a.toNat) :
    (n = 1 ∨ n = 2 ∨ n = 4) ∧ regionOf p a n = some (.outWin (a.toNat - 0x80000000)) := by
  obtain ⟨⟨-, hin⟩, -⟩ := hlegal
  obtain ⟨-, -, hpage⟩ | ⟨hwidth, -, -, hend⟩ | ⟨hwidth, haligned, -, hend⟩ := hperm
  · omega
  · omega
  · exact ⟨hwidth, regionOf_outWindow hwidth haligned hlow hend (by omega)⟩

theorem memRead_of_outWin {a : Word} {n off : Nat} (h : regionOf s.params a n = some (.outWin off)) :
    memRead a n s = some (BitVec.ofNat 32 (valueOfLanes (s.outSlice off n)), s.outReadDone) := by
  rw [memRead, h]

theorem memWrite_of_outWin {a : Word} {n off : Nat} (v : Word) (h : regionOf s.params a n = some (.outWin off)) :
    memWrite a n v s = .next s := by
  rw [memWrite, h]

/-- Lane k of a value read from OUT_MEM is the byte read at offset k. -/
theorem State.extractLsb'_outSlice (s : State) (off : Nat) {n k : Nat} (hn : n ≤ 4) (hk : k < n) :
    (BitVec.ofNat 32 (valueOfLanes (s.outSlice off n))).extractLsb' (8 * k) 8 = s.outReadByte (off + k) := by
  rw [extractLsb'_ofNat_valueOfLanes (by simpa [State.outSlice] using hn) (by simpa [State.outSlice] using hk)]
  simp [State.outSlice]

theorem State.outReadByte_of_idle (h : s.engine = .idle) (i : Nat) : s.outReadByte i = s.outByte i := by
  rw [State.outReadByte, h]

theorem State.outReadByte_of_busy (h : s.engine = .busy) (i : Nat) :
    s.outReadByte i = Config.freeOutByte s.draws i := by
  rw [State.outReadByte, h]

theorem State.outReadDone_of_idle (h : s.engine = .idle) : s.outReadDone = s := by
  rw [State.outReadDone, h]

theorem State.outReadDone_of_busy (h : s.engine = .busy) : s.outReadDone = { s with draws := s.draws + 1 } := by
  rw [State.outReadDone, h]

/-- Settles O49: the access touches the OUT window; a read returns the lanes of the stored bytes while IDLE and of the
next draw while BUSY. -/
theorem outWindowAccesses : Obligations.OutWindowAccesses := by
  intro s a v n hperm hlegal hlow
  obtain ⟨hwidth, hregion⟩ := regionOf_of_outBase_le hperm hlegal hlow
  have hn : n ≤ 4 := by omega
  refine ⟨memWrite_of_outWin v hregion, fun hidle => ?idle, fun hbusy => ?busy⟩
  case idle =>
    refine ⟨_, (memRead_of_outWin hregion).trans (by rw [State.outReadDone_of_idle hidle]), fun k hk => ?_⟩
    rw [State.extractLsb'_outSlice s _ hn hk, State.outReadByte_of_idle hidle]
  case busy =>
    refine ⟨_, (memRead_of_outWin hregion).trans (by rw [State.outReadDone_of_busy hbusy]), fun k hk => ?_⟩
    rw [State.extractLsb'_outSlice s _ hn hk, State.outReadByte_of_busy hbusy]

/-! ## Writes to the CSRs -/

/-- A write to a CSR that no rule makes writable is ignored. -/
theorem csrWrite_of_readOnly {r : Csr} (h : r ≠ .ctrl ∧ r ≠ .cmd ∧ r ≠ .status ∧ r ≠ .inLen) (v : Word) (s : State) :
    csrWrite r v s = .next s := by
  obtain ⟨hctrl, hcmd, hstatus, hinLen⟩ := h
  cases r with
  | ctrl => exact absurd rfl hctrl
  | cmd => exact absurd rfl hcmd
  | status => exact absurd rfl hstatus
  | inLen => exact absurd rfl hinLen
  | _ => rfl

theorem State.writeInLen_of_idle (h : s.engine = .idle) (v : Word) : s.writeInLen v = { s with inLen := v } := by
  rw [State.writeInLen, h]

theorem State.writeInLen_of_busy (h : s.engine = .busy) (v : Word) : s.writeInLen v = s.setWlock := by
  rw [State.writeInLen, h]

/-- The four writable CSRs stand at 0x004, 0x008, 0x00C and 0x014 (10_state.md R21). -/
theorem csrAt_readOnly {off : Nat} (h : off = 0x010 ∨ 0x018 ≤ off) :
    csrAt off ≠ .ctrl ∧ csrAt off ≠ .cmd ∧ csrAt off ≠ .status ∧ csrAt off ≠ .inLen := by
  obtain rfl | h := h
  · decide
  · unfold csrAt
    rw [if_neg (by omega), if_neg (by omega), if_neg (by omega), if_neg (by omega), if_neg (by omega),
      if_neg (by omega)]
    repeat' split
    all_goals decide

theorem memWrite_csrPage (s : State) (v : Word) {a : Word} (haligned : a.toNat % 4 = 0) (hpage : a.toNat ≤ 0xFFC) :
    memWrite a 4 v s = csrWrite (csrAt a.toNat) v s := by
  rw [memWrite, regionOf_csrPage s.params haligned hpage]

/-- Settles O47: an aligned word of the page writes the CSR at its offset, and only four of them take the write. -/
theorem csrWriteEffects : Obligations.CsrWriteEffects := by
  intro s v
  refine ⟨rfl, rfl, fun hidle => ?idle, fun hbusy => ?busy, rfl, fun a haligned hoff hpage => ?readOnly⟩
  case idle => exact congrArg Host.Outcome.next (State.writeInLen_of_idle hidle v)
  case busy => exact congrArg Host.Outcome.next (State.writeInLen_of_busy hbusy v)
  case readOnly => rw [memWrite_csrPage s v haligned hpage, csrWrite_of_readOnly (csrAt_readOnly hoff)]

/-! ## The interrupt level and reset -/

/-- Settles O51: the level follows DONE and IE at once, and acceptance clears DONE. -/
theorem interruptLevel : Obligations.InterruptLevel := by
  refine ⟨rfl, fun s => ⟨Bool.and_eq_true_iff, ⟨_, rfl, ?ack, rfl, rfl⟩, fun hdone => ⟨_, rfl, ?enable⟩,
    fun hidle => ?accept⟩⟩
  case ack => simp [State.irq, State.writeStatus]
  case enable => simp [State.irq, State.writeCtrl, hdone]
  case accept => exact ⟨⟨_, exec_of_idle .compress hidle, rfl⟩, _, exec_of_idle .decompress hidle, rfl⟩

/-- Settles O52: the reset values, read through the bus, and memories with no byte listed. -/
theorem resetState : Obligations.ResetState := by
  refine ⟨rfl, rfl, rfl, rfl, rfl, fun a haligned hlow hhigh => ?csrs, fun k => ⟨rfl, rfl⟩⟩
  case csrs =>
    rw [memRead_csrPage _ haligned (hhigh.trans (by decide))]
    obtain h | h | h | h | h | h : a.toNat = 0x004 ∨ a.toNat = 0x008 ∨ a.toNat = 0x00C ∨ a.toNat = 0x010 ∨
        a.toNat = 0x014 ∨ a.toNat = 0x018 := by omega
    all_goals rw [h]; rfl

/-- Settles O53: both edges of rst leave the reset values, and between them the host's turn is dropped. -/
theorem resetAbandonsTheCommand : Obligations.ResetAbandonsTheCommand := by
  intro s
  refine ⟨⟨_, rfl, rfl, rfl, rfl, rfl⟩, fun hrst op => if_pos hrst, fun hrst => ?deassert⟩
  case deassert =>
    have hdrive : s.driveRst false = { s.resetBlock with rst := false } := by simp [State.driveRst, hrst]
    have hstatus : State.statusWord { s.resetBlock with rst := false } = 0#32 :=
      BitVec.eq_of_toNat_eq (State.toNat_statusWord _)
    exact ⟨_, congrArg Host.Outcome.next hdrive, rfl, rfl, rfl, hstatus, rfl, rfl, rfl, rfl, rfl, rfl,
      fun _ => ⟨rfl, rfl⟩⟩

/-! ## The write of a command word -/

/-- Settles O1: the host's turn is the bus write, and a write to CMD is the word's command. -/
theorem stepRunsTheDecodedCommand : Obligations.StepRunsTheDecodedCommand := by
  intro s w rest hrst hinputs
  have hturn : ¬State.rst { s with inputs := rest } = true := by simp [hrst]
  rw [step_of_cons hinputs, takeInput, hostTurn, if_neg hturn, hostStep, hostWrite, memWrite_cmd]
  rfl

/-- The four lanes of a word make the word (20_memory.md R76). -/
theorem wordOfLanes_lanesOfWord (w : Word) :
    wordOfLanes (w.extractLsb' 0 8) (w.extractLsb' 8 8) (w.extractLsb' 16 8) (w.extractLsb' 24 8) = w := by
  rw [wordOfLanes, BitVec.extractLsb'_append_extractLsb'_eq_extractLsb' (start₂ := 24) (start₁ := 16) (len₁ := 8) rfl,
    BitVec.extractLsb'_append_extractLsb'_eq_extractLsb' (start₂ := 16) (start₁ := 8) (len₁ := 8) rfl,
    BitVec.extractLsb'_append_extractLsb'_eq_extractLsb' (start₂ := 8) (start₁ := 0) (len₁ := 8) rfl]
  exact BitVec.extractLsb'_eq_self

theorem decodeBytes_lanesOfWord (w : Word) : decodeBytes (lanesOfWord w) = .ok (decode w) := by
  rw [lanesOfWord, decodeBytes, wordOfLanes_lanesOfWord]

/-- Settles O2: the row's bits are decoded as the word that the host's write puts on the bus. -/
theorem fetchedWordRunsAsDecoded : Obligations.FetchedWordRunsAsDecoded := by
  intro s nbits w hbits
  refine ⟨decode (BitVec.ofNat 32 (w % 2 ^ nbits)), ?_, ?_⟩
  · rw [decodeTableWord, if_pos hbits, decodeBytes_lanesOfWord]
  · rw [stepRunsTheDecodedCommand (s.withFetchWord nbits w) _ s.inputs rfl rfl]
    rfl

/-! ## What a step does to the input and to ENG_STATE -/

/-- While BUSY no bus write reaches IN_LEN or IN_MEM (20_memory.md R85). -/
theorem memWrite_of_busy_frozen (hbusy : s.engine = .busy) {a v : Word} {n : Nat} (h : memWrite a n v s = .next t) :
    t.inLen = s.inLen ∧ ∀ k, t.inByte k = s.inByte k := by
  obtain rfl | rfl | rfl | rfl | ⟨-, -, hexec⟩ | ⟨off, -, rfl⟩ := memWrite_cases h
  · exact ⟨rfl, fun _ => rfl⟩
  · exact ⟨rfl, fun _ => rfl⟩
  · exact ⟨rfl, fun _ => rfl⟩
  · rw [State.writeInLen_of_busy hbusy]
    exact ⟨rfl, fun _ => rfl⟩
  · obtain ⟨⟨-, -, -, hinLen, -⟩, hbytes, -⟩ := commandFrame _ _ _ hexec
    exact ⟨hinLen, hbytes⟩
  · rw [State.writeInWindow_of_busy hbusy]
    exact ⟨rfl, fun _ => rfl⟩

/-- Settles O56: of the four things a step can do, only a reset would write IN_LEN or IN_MEM while BUSY. -/
theorem inputIsFrozenWhileBusy : Obligations.InputIsFrozenWhileBusy := by
  intro s t hbusy hnoreset hrst h
  obtain ⟨d, ins, r, -, rfl⟩ | ⟨-, a, n, v, rest, -, hwrite⟩ | ⟨ins, hengine⟩ | ⟨level, rest, hinputs, rfl⟩ :=
    step_cases h
  · exact ⟨rfl, fun _ => rfl⟩
  · exact memWrite_of_busy_frozen (s := { s with inputs := rest, response := .written }) hbusy hwrite
  · obtain ⟨⟨hinLen, -⟩, hbytes, -⟩ := completionFrame _ _ hengine
    exact ⟨hinLen, hbytes⟩
  · obtain ⟨hlevel | hasserted, -⟩ | ⟨-, -, hdrive⟩ := State.driveRst_cases level { s with inputs := rest }
    · exact absurd (hlevel ▸ hinputs) (hnoreset rest)
    · exact absurd (hrst.symm.trans hasserted) Bool.false_ne_true
    · rw [hdrive]
      exact ⟨rfl, fun _ => rfl⟩

/-- The codec commands are the words 1 and 2 alone (30_encoding.md R101). -/
theorem eq_encode_of_decode {w : Word} {i : Instr} (h : decode w = i) : w = encode i := by
  rw [← h, (encodeOfDecode w).2]

/-- Only an accepted word leaves the engine BUSY after a bus write made while IDLE (60_exceptions.md R328). -/
theorem memWrite_starts_engine (hidle : s.engine = .idle) {a v : Word} {n : Nat} (h : memWrite a n v s = .next t)
    (hbusy : t.engine = .busy) :
    a = cmdAddr ∧ n = 4 ∧ ((v = 1#32 ∧ t.curOp = .compress) ∨ (v = 2#32 ∧ t.curOp = .decompress)) := by
  have hstill : t.engine ≠ s.engine := by simp [hidle, hbusy]
  obtain rfl | rfl | rfl | rfl | ⟨ha, hn, hexec⟩ | ⟨off, -, rfl⟩ := memWrite_cases h
  · exact absurd rfl hstill
  · exact absurd rfl hstill
  · exact absurd rfl hstill
  · exact absurd (State.writeInLen_engine s v) hstill
  · refine ⟨ha, hn, ?_⟩
    obtain ⟨-, rfl⟩ | ⟨-, ⟨-, rfl⟩ | ⟨hi, rfl⟩ | ⟨hi, rfl⟩ | ⟨e, rfl⟩⟩ := exec_cases hexec
    · exact absurd rfl hstill
    · exact absurd rfl hstill
    · exact .inl ⟨eq_encode_of_decode hi, rfl⟩
    · exact .inr ⟨eq_encode_of_decode hi, rfl⟩
    · exact absurd rfl hstill
  · exact absurd (State.writeInWindow_engine s off n v) hstill

/-- Settles O57: a read, the engine's turn and a reset leave an IDLE engine IDLE, and of the writes only one of an
accepted word to CMD starts it. -/
theorem onlyAcceptanceStartsTheEngine : Obligations.OnlyAcceptanceStartsTheEngine := by
  intro s t hidle h hbusy
  have hstill : t.engine ≠ s.engine := by simp [hidle, hbusy]
  obtain ⟨d, ins, r, -, rfl⟩ | ⟨hrst, a, n, v, rest, hsource, hwrite⟩ | ⟨ins, hengine⟩ | ⟨level, rest, -, rfl⟩ :=
    step_cases h
  · exact absurd rfl hstill
  · obtain ⟨rfl, rfl, hword⟩ :=
      memWrite_starts_engine (s := { s with inputs := rest, response := .written }) hidle hwrite hbusy
    exact ⟨hrst, v, rest, hsource.resolve_right (by decide), hword⟩
  · rw [engineTurn_of_idle (s := { s with inputs := ins }) hidle] at hengine
    cases hengine
    exact absurd rfl hstill
  · obtain ⟨-, hdrive⟩ | ⟨-, -, hdrive⟩ := State.driveRst_cases level { s with inputs := rest } <;> rw [hdrive] at hbusy
    · exact absurd hbusy nofun
    · exact absurd (hidle.symm.trans hbusy) nofun

end Sys2Proof.Machine
end

section
/-! PROOFS. 30_encoding.md: a well-formed sequence is the encoding of the one scalar value it decodes to (R108,
R109). -/

namespace Sys2Proof.Machine

/-! ## The sequences of each length -/

/-- A sequence that begins with a row of one or more ranges has a first byte in the first range. -/
theorem exists_cons_of_beginsWithRow {r : Nat × Nat} {row : List (Nat × Nat)} {bs : List Byte}
    (h : beginsWithRow (r :: row) bs = true) :
    ∃ b t, bs = b :: t ∧ (r.1 ≤ b.toNat ∧ b.toNat ≤ r.2) ∧ beginsWithRow row t = true := by
  cases bs with
  | nil => exact absurd h Bool.false_ne_true
  | cons b t =>
    obtain ⟨hrange, hrest⟩ := beginsWithRow_cons.1 h
    exact ⟨b, t, rfl, hrange, hrest⟩

/-- A byte is known by its value. -/
theorem ofNat_eq_of_toNat {n : Nat} {b : Byte} (h : n = b.toNat) : BitVec.ofNat 8 n = b := by
  rw [h, BitVec.ofNat_toNat, BitVec.setWidth_eq]

/-- R109 for two bytes: writing the value read gives the bytes back. -/
theorem utf8Encode_utf8Value_two {b1 b2 : Byte} (h1 : 0xC2 ≤ b1.toNat ∧ b1.toNat ≤ 0xDF)
    (h2 : 0x80 ≤ b2.toNat ∧ b2.toNat ≤ 0xBF) : utf8Encode (utf8Value [b1, b2]) = [b1, b2] := by
  simp only [utf8Value]
  rw [utf8Encode_two (by omega) (by omega), ofNat_eq_of_toNat (b := b1) (by omega),
    ofNat_eq_of_toNat (b := b2) (by omega)]

/-- R109 for three bytes, unless the form is overlong. -/
theorem utf8Encode_utf8Value_three {b1 b2 b3 : Byte} (h1 : 0xE0 ≤ b1.toNat ∧ b1.toNat ≤ 0xEF)
    (h2 : 0x80 ≤ b2.toNat ∧ b2.toNat ≤ 0xBF) (h3 : 0x80 ≤ b3.toNat ∧ b3.toNat ≤ 0xBF)
    (hlong : b1.toNat = 0xE0 → 0xA0 ≤ b2.toNat) : utf8Encode (utf8Value [b1, b2, b3]) = [b1, b2, b3] := by
  simp only [utf8Value]
  rw [utf8Encode_three (by omega) (by omega), ofNat_eq_of_toNat (b := b1) (by omega),
    ofNat_eq_of_toNat (b := b2) (by omega), ofNat_eq_of_toNat (b := b3) (by omega)]

/-- R109 for four bytes, unless the form is overlong. -/
theorem utf8Encode_utf8Value_four {b1 b2 b3 b4 : Byte} (h1 : 0xF0 ≤ b1.toNat ∧ b1.toNat ≤ 0xF4)
    (h2 : 0x80 ≤ b2.toNat ∧ b2.toNat ≤ 0xBF) (h3 : 0x80 ≤ b3.toNat ∧ b3.toNat ≤ 0xBF)
    (h4 : 0x80 ≤ b4.toNat ∧ b4.toNat ≤ 0xBF) (hlong : b1.toNat = 0xF0 → 0x90 ≤ b2.toNat) :
    utf8Encode (utf8Value [b1, b2, b3, b4]) = [b1, b2, b3, b4] := by
  simp only [utf8Value]
  rw [utf8Encode_four (by omega), ofNat_eq_of_toNat (b := b1) (by omega), ofNat_eq_of_toNat (b := b2) (by omega),
    ofNat_eq_of_toNat (b := b3) (by omega), ofNat_eq_of_toNat (b := b4) (by omega)]

/-- What a row accepts: a scalar value's encoding, of the row's length. -/
def AcceptsScalars (row : List (Nat × Nat)) : Prop :=
  ∀ bs : List Byte, beginsWithRow row bs = true →
    ∃ seq rest, bs = seq ++ rest ∧ seq.length = row.length ∧ isScalar (utf8Value seq) ∧ utf8Encode (utf8Value seq) = seq

theorem acceptsScalars_one : AcceptsScalars [(0x00, 0x7F)] := by
  intro bs h
  obtain ⟨b1, rest, rfl, h1, -⟩ := exists_cons_of_beginsWithRow h
  refine ⟨[b1], rest, rfl, rfl, .inl (h1.2.trans (by decide)), ?_⟩
  rw [utf8Value, utf8Encode_one h1.2, ofNat_eq_of_toNat rfl]

theorem acceptsScalars_two : AcceptsScalars [(0xC2, 0xDF), (0x80, 0xBF)] := by
  intro bs h
  obtain ⟨b1, _, rfl, h1, h⟩ := exists_cons_of_beginsWithRow h
  obtain ⟨b2, rest, rfl, h2, -⟩ := exists_cons_of_beginsWithRow h
  exact ⟨[b1, b2], rest, rfl, rfl, by simp only [utf8Value, isScalar_iff]; omega,
    utf8Encode_utf8Value_two h1 h2⟩

/-- The rows of three bytes differ in the first two ranges, which keep overlong forms and surrogates out. -/
theorem acceptsScalars_three {r1 r2 : Nat × Nat} (hr1 : 0xE0 ≤ r1.1 ∧ r1.2 ≤ 0xEF) (hr2 : 0x80 ≤ r2.1 ∧ r2.2 ≤ 0xBF)
    (hlong : r1.1 = 0xE0 → 0xA0 ≤ r2.1) (hsurrogate : r1.1 ≤ 0xED → 0xED ≤ r1.2 → r2.2 ≤ 0x9F) :
    AcceptsScalars [r1, r2, (0x80, 0xBF)] := by
  intro bs h
  obtain ⟨b1, _, rfl, h1, h⟩ := exists_cons_of_beginsWithRow h
  obtain ⟨b2, _, rfl, h2, h⟩ := exists_cons_of_beginsWithRow h
  obtain ⟨b3, rest, rfl, h3, -⟩ := exists_cons_of_beginsWithRow h
  refine ⟨[b1, b2, b3], rest, rfl, rfl, ?_, utf8Encode_utf8Value_three (by omega) (by omega) h3 (by omega)⟩
  simp only [utf8Value, isScalar_iff]
  omega

/-- The rows of four bytes differ in the first two ranges, which keep overlong forms and values above 0x10FFFF out. -/
theorem acceptsScalars_four {r1 r2 : Nat × Nat} (hr1 : 0xF0 ≤ r1.1 ∧ r1.2 ≤ 0xF4) (hr2 : 0x80 ≤ r2.1 ∧ r2.2 ≤ 0xBF)
    (hlong : r1.1 = 0xF0 → 0x90 ≤ r2.1) (hmax : 0xF4 ≤ r1.2 → r2.2 ≤ 0x8F) :
    AcceptsScalars [r1, r2, (0x80, 0xBF), (0x80, 0xBF)] := by
  intro bs h
  obtain ⟨b1, _, rfl, h1, h⟩ := exists_cons_of_beginsWithRow h
  obtain ⟨b2, _, rfl, h2, h⟩ := exists_cons_of_beginsWithRow h
  obtain ⟨b3, _, rfl, h3, h⟩ := exists_cons_of_beginsWithRow h
  obtain ⟨b4, rest, rfl, h4, -⟩ := exists_cons_of_beginsWithRow h
  refine ⟨[b1, b2, b3, b4], rest, rfl, rfl, ?_, utf8Encode_utf8Value_four (by omega) (by omega) h3 h4 (by omega)⟩
  simp only [utf8Value, isScalar_iff]
  omega

/-- R108: each row of the table accepts scalar values only, in their one encoding. -/
theorem acceptsScalars_of_mem {row : List (Nat × Nat)} (hrow : row ∈ utf8Rows) : AcceptsScalars row := by
  simp only [utf8Rows, List.mem_cons, List.not_mem_nil, or_false] at hrow
  obtain rfl | rfl | rfl | rfl | rfl | rfl | rfl | rfl | rfl := hrow
  · exact acceptsScalars_one
  · exact acceptsScalars_two
  · exact acceptsScalars_three (by decide) (by decide) (by decide) (by decide)
  · exact acceptsScalars_three (by decide) (by decide) (by decide) (by decide)
  · exact acceptsScalars_three (by decide) (by decide) (by decide) (by decide)
  · exact acceptsScalars_three (by decide) (by decide) (by decide) (by decide)
  · exact acceptsScalars_four (by decide) (by decide) (by decide) (by decide)
  · exact acceptsScalars_four (by decide) (by decide) (by decide) (by decide)
  · exact acceptsScalars_four (by decide) (by decide) (by decide) (by decide)

/-- R108, R109: a byte sequence with a decodable head is the encoding of a scalar value and a rest. -/
theorem utf8Head_eq_some {bs : List Byte} {c : Symbol} {k : Nat} (h : utf8Head bs = some (c, k)) :
    isScalar c ∧ k = (utf8Encode c).length ∧ ∃ rest, bs = utf8Encode c ++ rest := by
  unfold utf8Head at h
  split at h
  · next row hfind =>
    have hbegins : beginsWithRow row bs = true := List.find?_some (p := (beginsWithRow · bs)) hfind
    obtain ⟨seq, rest, rfl, hlength, hscalar, hencode⟩ :=
      acceptsScalars_of_mem (List.mem_of_find?_eq_some hfind) bs hbegins
    rw [← hlength, List.take_left] at h
    cases h
    exact ⟨hscalar, by rw [hencode], rest, by rw [hencode]⟩
  · cases h

/-- Settles O24: decoding inverts encoding, and each row of well-formed sequences holds encodings only. -/
theorem utf8DecodeInvertsEncode : Obligations.Utf8DecodeInvertsEncode := by
  refine ⟨fun c rest hc => utf8Head_utf8Encode_append hc rest, fun bs c k h => ?_⟩
  obtain ⟨hc, rfl, rest, rfl⟩ := utf8Head_eq_some h
  exact ⟨hc, by simp, List.take_left⟩

theorem utf8Encode_ne_nil (c : Symbol) : utf8Encode c ≠ [] := by
  unfold utf8Encode
  split_ifs <;> exact List.cons_ne_nil _ _

end Sys2Proof.Machine
end

section
/-! PROOFS. 41_text_and_frequency.md: the pass of ScanAndCount over the symbols of a text (R161), the frequency table it
leaves (R162 to R164), and the error it reports (R165). -/

namespace Sys2Proof.Machine

/-! ## Order of first occurrence -/

theorem eraseDups_concat_of_mem {l : List Symbol} {a : Symbol} (h : a ∈ l) : (l ++ [a]).eraseDups = l.eraseDups := by
  simp [List.eraseDups_append, List.removeAll, h]

theorem eraseDups_concat_of_not_mem {l : List Symbol} {a : Symbol} (h : a ∉ l) :
    (l ++ [a]).eraseDups = l.eraseDups ++ [a] := by
  simp [List.eraseDups_append, List.removeAll, h, List.eraseDups_cons]

theorem nodup_eraseDups (l : List Symbol) : l.eraseDups.Nodup := by
  induction l using List.reverseRecOn with
  | nil => exact List.nodup_nil
  | append_singleton l a ih =>
    by_cases h : a ∈ l
    · rwa [eraseDups_concat_of_mem h]
    · rw [eraseDups_concat_of_not_mem h]
      exact List.concat_eq_append ▸ ih.concat fun hmem => h (List.mem_eraseDups.1 hmem)

theorem length_eraseDups_le_append (l l' : List Symbol) : l.eraseDups.length ≤ (l ++ l').eraseDups.length := by
  simp [List.eraseDups_append]

/-- The counts of the distinct symbols add up to the number of symbols. -/
theorem sum_count_eraseDups (l : List Symbol) : (l.eraseDups.map fun c => l.count c).sum = l.length := by
  have hperm : l.eraseDups.Perm l.dedup :=
    (List.perm_ext_iff_of_nodup (nodup_eraseDups l) l.nodup_dedup).2 fun c => by
      rw [List.mem_eraseDups, List.mem_dedup]
  rw [(hperm.map _).sum_eq]
  exact List.sum_map_count_dedup_eq_length l

/-! ## The frequency table of a list of symbols -/

/-- R162: the distinct symbols in order of first occurrence, each with its count. -/
def freqOf (syms : List Symbol) : Freq := syms.eraseDups.map fun c => (c, syms.count c)

theorem length_freqOf (syms : List Symbol) : (freqOf syms).length = syms.eraseDups.length := List.length_map _

theorem has_freqOf {syms : List Symbol} {c : Symbol} : Freq.has c (freqOf syms) = true ↔ c ∈ syms := by
  simp [Freq.has, freqOf]

/-- Counting a symbol adds one to its entry and leaves the others. -/
theorem bump_map {c : Symbol} {n : Symbol → Nat} {l : List Symbol} (hl : l.Nodup) :
    Freq.bump c (l.map fun x => (x, n x)) = l.map fun x => (x, if x = c then n x + 1 else n x) := by
  induction l with
  | nil => rfl
  | cons a l ih =>
    obtain ⟨hfresh, hrest⟩ := List.nodup_cons.1 hl
    rw [List.map_cons, List.map_cons, Freq.bump]
    by_cases hac : a = c
    · subst hac
      have hothers : ∀ x ∈ l, x ≠ a := fun x hx hxa => hfresh (hxa ▸ hx)
      rw [if_pos rfl, if_pos rfl]
      exact congrArg _ (List.map_congr_left fun x hx => by rw [if_neg (hothers x hx)])
    · rw [if_neg hac, if_neg hac, ih hrest]

theorem count_concat (syms : List Symbol) (c x : Symbol) :
    (syms ++ [c]).count x = if x = c then syms.count x + 1 else syms.count x := by
  rw [List.count_append, List.count_singleton]
  by_cases h : x = c
  · simp [h]
  · simp [h, Ne.symm h]

theorem freqOf_concat_of_mem {syms : List Symbol} {c : Symbol} (h : c ∈ syms) :
    freqOf (syms ++ [c]) = Freq.bump c (freqOf syms) := by
  rw [freqOf, freqOf, eraseDups_concat_of_mem h, bump_map (nodup_eraseDups syms)]
  simp only [count_concat]

theorem freqOf_concat_of_not_mem {syms : List Symbol} {c : Symbol} (h : c ∉ syms) :
    freqOf (syms ++ [c]) = freqOf syms ++ [(c, 1)] := by
  have hothers : ∀ x ∈ syms.eraseDups, x ≠ c := fun x hx hxc => h (hxc ▸ List.mem_eraseDups.1 hx)
  have hold : (syms.eraseDups.map fun x => (x, (syms ++ [c]).count x)) = freqOf syms :=
    List.map_congr_left fun x hx => by rw [count_concat, if_neg (hothers x hx)]
  have hnew : (syms ++ [c]).count c = 1 := by rw [count_concat, if_pos rfl, List.count_eq_zero_of_not_mem h]
  rw [freqOf, eraseDups_concat_of_not_mem h, List.map_append, hold, List.map_singleton, hnew]

/-- R161: one symbol of the pass takes the table of the symbols so far to that of one more, unless it is new and
P_MAX_SYMBOLS distinct ones were seen. -/
theorem count_freqOf (p : Params) (syms : List Symbol) (c : Symbol) :
    Freq.count p c (freqOf syms) =
      if c ∉ syms ∧ syms.eraseDups.length = p.maxSymbols then raise .capSymbols else .ok (freqOf (syms ++ [c])) := by
  by_cases h : c ∈ syms
  · have hseen : ¬(c ∉ syms ∧ syms.eraseDups.length = p.maxSymbols) := fun hnew => hnew.1 h
    rw [Freq.count, if_pos (has_freqOf.2 h), if_neg hseen, freqOf_concat_of_mem h]
  · rw [Freq.count, if_neg (mt has_freqOf.1 h), length_freqOf, freqOf_concat_of_not_mem h]
    simp only [h, not_false_eq_true, true_and]

/-! ## The pass -/

@[simp] theorem utf8EncodeAll_nil : utf8EncodeAll [] = [] := rfl

@[simp] theorem utf8EncodeAll_cons (c : Symbol) (syms : List Symbol) :
    utf8EncodeAll (c :: syms) = utf8Encode c ++ utf8EncodeAll syms := rfl

theorem length_le_length_utf8EncodeAll (syms : List Symbol) : syms.length ≤ (utf8EncodeAll syms).length := by
  induction syms with
  | nil => exact Nat.le_refl _
  | cons c syms ih =>
    have hpos := List.length_pos_of_ne_nil (utf8Encode_ne_nil c)
    rw [utf8EncodeAll_cons, List.length_append, List.length_cons]
    omega

@[simp] theorem scanFrom_nil (p : Params) (skip : Nat) (syms : List Symbol) (freq : Freq) :
    scanFrom p skip [] syms freq = .ok (syms, freq) := by
  cases skip <;> rfl

/-- "p <- p + k": the bytes of the sequence decoded last are passed over. -/
theorem scanFrom_skip (p : Params) (T : List Byte) :
    ∀ (skip : Nat) (syms : List Symbol) (freq : Freq),
      scanFrom p skip T syms freq = scanFrom p 0 (T.drop skip) syms freq := by
  induction T with
  | nil => intro skip syms freq; simp
  | cons b T ih =>
    intro skip syms freq
    cases skip with
    | zero => rfl
    | succ skip => exact ih skip syms freq

theorem scanFrom_of_ill_formed (p : Params) {T : List Byte} (hT : T ≠ []) (h : utf8Head T = none) (syms : List Symbol)
    (freq : Freq) : scanFrom p 0 T syms freq = raise .illFormedUtf8 := by
  obtain ⟨b, T, rfl⟩ := List.exists_cons_of_ne_nil hT
  simp only [scanFrom, h]

/-- R161: the pass over one symbol. -/
theorem scanFrom_utf8Encode_append (p : Params) {c : Symbol} (hc : isScalar c) (rest : List Byte) (syms : List Symbol)
    (freq : Freq) :
    scanFrom p 0 (utf8Encode c ++ rest) syms freq =
      (Freq.count p c freq >>= fun freq' => scanFrom p 0 rest (syms ++ [c]) freq') := by
  have hhead := utf8Head_utf8Encode_append hc rest
  obtain ⟨b, t, hbt⟩ := List.exists_cons_of_ne_nil (utf8Encode_ne_nil c)
  rw [hbt, List.cons_append] at hhead ⊢
  simp only [scanFrom, hhead]
  cases Freq.count p c freq with
  | error h => rfl
  | ok freq' =>
    have hskip := scanFrom_skip p (t ++ rest) t.length (syms ++ [c]) freq'
    rwa [List.drop_left] at hskip

/-- R161: the pass over symbols of which at most P_MAX_SYMBOLS are distinct, from any point of it on. -/
theorem scanFrom_utf8EncodeAll_append (p : Params) (new : List Symbol) (rest : List Byte) :
    ∀ {syms : List Symbol}, (∀ c ∈ new, isScalar c) → (syms ++ new).eraseDups.length ≤ p.maxSymbols →
      scanFrom p 0 (utf8EncodeAll new ++ rest) syms (freqOf syms) =
        scanFrom p 0 rest (syms ++ new) (freqOf (syms ++ new)) := by
  induction new with
  | nil => intro syms _ _; simp
  | cons c new ih =>
    intro syms hscalar hmax
    obtain ⟨hc, hnew⟩ := List.forall_mem_cons.1 hscalar
    have happend : syms ++ c :: new = syms ++ [c] ++ new := by simp
    have hroom : ¬(c ∉ syms ∧ syms.eraseDups.length = p.maxSymbols) := by
      rintro ⟨hfresh, hfull⟩
      have hle := (length_eraseDups_le_append (syms ++ [c]) new).trans (happend ▸ hmax)
      rw [eraseDups_concat_of_not_mem hfresh, List.length_append, List.length_singleton] at hle
      omega
    rw [utf8EncodeAll_cons, List.append_assoc, scanFrom_utf8Encode_append p hc, count_freqOf, if_neg hroom, ok_bind,
      happend]
    exact ih hnew (happend ▸ hmax)

/-- Settles O26: the pass runs through the symbols, and what stands behind them decides. -/
theorem scanReportsTheFirstError : Obligations.ScanReportsTheFirstError := by
  intro p syms rest hscalar hmax
  have hpass (rest : List Byte) :
      scanAndCount p (utf8EncodeAll syms ++ rest) = scanFrom p 0 rest syms (freqOf syms) :=
    scanFrom_utf8EncodeAll_append p syms rest (syms := []) hscalar hmax
  refine ⟨?scans, fun hne hill => ?illFormed, fun c hc hfresh hfull => ?symbols⟩
  case scans =>
    have h := hpass []
    rwa [List.append_nil, scanFrom_nil] at h
  case illFormed => rw [hpass, scanFrom_of_ill_formed p hne hill]
  case symbols =>
    rw [List.append_assoc, hpass, scanFrom_utf8Encode_append p hc, count_freqOf, if_pos ⟨hfresh, hfull⟩, raise_bind]

/-- What a pass that succeeds has read: the encodings of scalar values, counted without passing P_MAX_SYMBOLS. -/
theorem scanFrom_eq_ok {p : Params} {syms' : List Symbol} {freq' : Freq} (n : Nat) :
    ∀ {T : List Byte} {syms : List Symbol}, T.length ≤ n → syms.eraseDups.length ≤ p.maxSymbols →
      scanFrom p 0 T syms (freqOf syms) = .ok (syms', freq') →
      ∃ new, syms' = syms ++ new ∧ freq' = freqOf syms' ∧ syms'.eraseDups.length ≤ p.maxSymbols ∧
        (∀ c ∈ new, isScalar c) ∧ utf8EncodeAll new = T := by
  induction n with
  | zero =>
    intro T syms hT hmax h
    obtain rfl := List.eq_nil_of_length_eq_zero (Nat.le_zero.1 hT)
    cases h
    exact ⟨[], by simp, rfl, hmax, by simp, rfl⟩
  | succ n ih =>
    intro T syms hT hmax h
    by_cases hempty : T = []
    · subst hempty
      cases h
      exact ⟨[], by simp, rfl, hmax, by simp, rfl⟩
    cases hhead : utf8Head T with
    | none =>
      rw [scanFrom_of_ill_formed p hempty hhead] at h
      exact absurd h (raise_ne_ok _ _)
    | some head =>
      obtain ⟨c, k⟩ := head
      obtain ⟨hc, -, rest, rfl⟩ := utf8Head_eq_some hhead
      rw [scanFrom_utf8Encode_append p hc, count_freqOf] at h
      split_ifs at h with hfull
      · exact absurd h (raise_ne_ok _ _)
      have hrest : rest.length ≤ n := by
        have hpos := List.length_pos_of_ne_nil (utf8Encode_ne_nil c)
        rw [List.length_append] at hT
        omega
      have hmax' : (syms ++ [c]).eraseDups.length ≤ p.maxSymbols := by
        by_cases hmem : c ∈ syms
        · rwa [eraseDups_concat_of_mem hmem]
        · have hne : syms.eraseDups.length ≠ p.maxSymbols := fun heq => hfull ⟨hmem, heq⟩
          rw [eraseDups_concat_of_not_mem hmem, List.length_append, List.length_singleton]
          omega
      obtain ⟨new, rfl, hfreq, hbound, hscalar, htext⟩ := ih hrest hmax' h
      exact ⟨c :: new, by simp, hfreq, hbound, List.forall_mem_cons.2 ⟨hc, hscalar⟩, by rw [utf8EncodeAll_cons, htext]⟩

/-- R161, R162: what ScanAndCount returned. -/
theorem scanAndCount_eq_ok {p : Params} {T : List Byte} {syms : List Symbol} {freq : Freq}
    (h : scanAndCount p T = .ok (syms, freq)) :
    freq = freqOf syms ∧ syms.eraseDups.length ≤ p.maxSymbols ∧ (∀ c ∈ syms, isScalar c) ∧ utf8EncodeAll syms = T := by
  obtain ⟨new, hsyms, hfreq, hmax, hscalar, htext⟩ :=
    scanFrom_eq_ok T.length (syms := []) (Nat.le_refl _) (Nat.zero_le _) h
  obtain rfl : syms = new := hsyms
  exact ⟨hfreq, hmax, hscalar, htext⟩

/-- Settles O25: the table is the one of the symbols read, and the rest is arithmetic on counts. -/
theorem frequencyTableOfScan : Obligations.FrequencyTableOfScan := by
  intro p T syms freq h
  obtain ⟨rfl, hmax, hscalar, rfl⟩ := scanAndCount_eq_ok h
  refine ⟨rfl, (length_freqOf syms).trans_le hmax, fun hne => ?nonempty, fun e he => ?positive, ?sum,
    length_le_length_utf8EncodeAll syms, hscalar, rfl⟩
  case nonempty =>
    obtain ⟨c, rest, rfl⟩ := List.exists_cons_of_ne_nil (scanAndCount_ne_nil hne h)
    rw [length_freqOf, List.eraseDups_cons]
    exact Nat.succ_le_succ (Nat.zero_le _)
  case positive =>
    obtain ⟨c, hc, rfl⟩ := List.mem_map.1 he
    exact List.count_pos_iff.2 (List.mem_eraseDups.1 hc)
  case sum =>
    rw [freqOf, List.map_map]
    exact sum_count_eraseDups syms

end Sys2Proof.Machine
end

section
/-! PROOFS. 45_bit_packer.md: the padding and the size of a payload (R241, R244), and Unpack after Pack (R247). -/

namespace Sys2Proof.Machine

theorem padCount_le (L : Nat) : padCount L ≤ 7 := by
  simp only [padCount]
  omega

/-- The padding byte holds the padding count as it is. -/
theorem toNat_ofNat_padCount (L : Nat) : (BitVec.ofNat 8 (padCount L)).toNat = padCount L :=
  (BitVec.toNat_ofNat _ _).trans (Nat.mod_eq_of_lt (by have := padCount_le L; omega))

/-- Settles O33: the padding byte stands first, and each further byte holds eight bits. -/
theorem packSizeAndPadding : Obligations.PackSizeAndPadding := by
  intro bits
  refine ⟨pack_length bits, _, _, rfl, toNat_ofNat_padCount bits.length, ?_⟩
  rw [toNat_ofNat_padCount]
  exact padCount_le bits.length

/-- R14: the bits of a byte made of eight bits are those bits. -/
theorem byteToBits_bitsToByte : ∀ b0 b1 b2 b3 b4 b5 b6 b7 : Bool,
    byteToBits (bitsToByte [b0, b1, b2, b3, b4, b5, b6, b7]) = [b0, b1, b2, b3, b4, b5, b6, b7] := by
  decide

/-- R243: whole bytes of bits are read back in order. -/
theorem bytesToBits_bitsToBytes (bits : Bits) (h : bits.length % 8 = 0) : bytesToBits (bitsToBytes bits) = bits := by
  induction bits using bitsToBytes.induct with
  | case1 b0 b1 b2 b3 b4 b5 b6 b7 rest ih =>
    have hrest : rest.length % 8 = 0 := by simp only [List.length_cons] at h; omega
    rw [bitsToBytes, bytesToBits_cons, byteToBits_bitsToByte, ih hrest]
    rfl
  | case2 bits hshort =>
    match bits with
    | [] => rfl
    | [_] | [_, _] | [_, _, _] | [_, _, _, _] | [_, _, _, _, _] | [_, _, _, _, _, _] | [_, _, _, _, _, _, _] =>
      simp at h
    | b0 :: b1 :: b2 :: b3 :: b4 :: b5 :: b6 :: b7 :: rest => exact absurd rfl (hshort b0 b1 b2 b3 b4 b5 b6 b7 rest)

/-- R247: the filler makes whole bytes, and Unpack drops as many bits as there are filler bits. -/
theorem unpack_pack (bits : Bits) : unpack (pack bits) = .ok bits := by
  have hpad := padCount_le bits.length
  have hwhole : (bits ++ List.replicate (padCount bits.length) false).length % 8 = 0 := by
    simp only [List.length_append, List.length_replicate, padCount]
    omega
  have hbytes : 8 * (bitsToBytes (bits ++ List.replicate (padCount bits.length) false)).length =
      bits.length + padCount bits.length := by
    rw [bitsToBytes_length, Nat.mul_div_cancel' (Nat.dvd_of_mod_eq_zero hwhole), List.length_append,
      List.length_replicate]
  rw [pack, unpack_cons_eq_ite, toNat_ofNat_padCount, if_neg (by omega), hbytes, if_neg (by omega), Nat.add_sub_cancel,
    bytesToBits_bitsToBytes _ hwhole, List.take_left]

/-- Settles O34: `unpack_pack` is the claim. -/
theorem unpackOfPack : Obligations.UnpackOfPack := unpack_pack

end Sys2Proof.Machine
end

section
/-! PROOFS. 46_container.md and 30_encoding.md: SplitContainer after Frame (R262), ParseTable after SerializeTable
(R268), and the table text that ParseTable accepts as the canonical one (R114): each reader of the grammar has consumed what the
writer of what it returns would write. -/

namespace Sys2Proof.Machine

/-- Settles O38: the header read big-endian is the length, so the regions are those that were joined. -/
theorem splitOfFrame : Obligations.SplitOfFrame :=
  fun _ payload h => ⟨splitContainer_frame h payload, _, _, _, _, rfl, be32_lengthField h⟩

/-- Settles O36: `parseTable_serializeTable` is the claim. -/
theorem parseOfSerialize : Obligations.ParseOfSerialize := fun _ => parseTable_serializeTable

/-! ## One key -/

theorem expect_eq_some {b : Byte} {X t : List Byte} (h : expect b X = some t) : X = b :: t := by
  cases X with
  | nil => cases h
  | cons x X =>
    rw [expect] at h
    split at h
    · next hx => rw [hx, Option.some.inj h]
    · cases h

/-- The scalar values of the short escapes differ from one another. -/
theorem shortEscapes_find_of_mem :
    ∀ e ∈ shortEscapes, (shortEscapes.find? fun e' => e'.2 == e.2) = some e := by decide

theorem escapeKey_of_short {e : Byte × Symbol} (he : e ∈ shortEscapes) : escapeKey e.2 = [chBackslash, e.1] := by
  rw [escapeKey, shortEscapes_find_of_mem e he]

theorem escapeKey_of_control {c : Nat} (hc : c < 0x20) (hshort : (shortEscapes.find? fun e => e.2 == c) = none) :
    escapeKey c = [chBackslash, chU, chZero, chZero, hexDigit (c / 16), hexDigit (c % 16)] := by
  rw [escapeKey, hshort]
  exact if_pos hc

theorem escapeKey_of_literal {c : Nat} (hc : 0x20 ≤ c ∧ c ≠ 0x22 ∧ c ≠ 0x5C) : escapeKey c = utf8Encode c := by
  obtain ⟨hlow, hquote, hbackslash⟩ := hc
  have hshort : (shortEscapes.find? fun e => e.2 == c) = none := by
    simp only [shortEscapes, List.find?_eq_none, List.forall_mem_cons, beq_iff_eq, List.not_mem_nil, false_imp_iff,
      implies_true, and_true]
    omega
  rw [escapeKey, hshort]
  exact if_neg (Nat.not_lt.2 hlow)

theorem escapeChar_cons_eq_some {x : Byte} {t rest : List Byte} {c : Symbol}
    (h : escapeChar (x :: t) = some (c, rest)) :
    ((x, c) ∈ shortEscapes ∧ t = rest) ∨ (x = chU ∧ unicodeEscape t = some (c, rest)) := by
  rw [escapeChar] at h
  split at h
  · next c' hlookup =>
    cases h
    obtain ⟨l₁, l₂, hl, -⟩ := List.lookup_eq_some_iff.1 hlookup
    exact .inl ⟨hl ▸ by simp, rfl⟩
  · split at h
    · next hx => exact .inr ⟨hx, h⟩
    · cases h

/-- R112: a lower-case hex digit is the digit of its value. -/
theorem hexVal_eq_some {b : Byte} {v : Nat} (h : hexVal b = some v) : v < 16 ∧ hexDigit v = b := by
  rw [hexVal] at h
  split_ifs at h with hdigit hletter <;> obtain rfl := Option.some.inj h
  · refine ⟨by omega, ?_⟩
    rw [hexDigit, if_pos (by omega), ofNat_eq_of_toNat (b := b) (by omega)]
  · refine ⟨by omega, ?_⟩
    rw [hexDigit, if_neg (by omega), ofNat_eq_of_toNat (b := b) (by omega)]

/-- R110: `uesc` spells a control character without a short escape, in its one way. -/
theorem unicodeEscape_eq_some {t rest : List Byte} {c : Symbol} (h : unicodeEscape t = some (c, rest)) :
    c < 0x20 ∧ chBackslash :: chU :: t = escapeKey c ++ rest := by
  match t with
  | [] | [_] | [_, _] | [_, _, _] => cases h
  | z1 :: z2 :: hi :: lo :: t =>
    rw [unicodeEscape] at h
    split_ifs at h with hdigits
    obtain ⟨rfl, rfl, hhigh⟩ := hdigits
    split at h
    · next high low hhi hlo =>
      split_ifs at h with hlong
      cases h
      obtain ⟨-, hhiDigit⟩ := hexVal_eq_some hhi
      obtain ⟨hlow16, hloDigit⟩ := hexVal_eq_some hlo
      have hhigh2 : high < 2 := by
        obtain rfl | rfl := hhigh <;> cases hhi <;> decide
      have hshort : (shortEscapes.find? fun e => e.2 == 16 * high + low) = none := by
        simp only [hasShortEscape, Bool.not_eq_true, Bool.or_eq_false_iff, beq_eq_false_iff_ne] at hlong
        simp only [shortEscapes, List.find?_eq_none, List.forall_mem_cons, beq_iff_eq, List.not_mem_nil,
          false_imp_iff, implies_true, and_true]
        omega
      have hdiv : (16 * high + low) / 16 = high := by omega
      have hmod : (16 * high + low) % 16 = low := by omega
      refine ⟨show 16 * high + low < 0x20 by omega, ?_⟩
      rw [escapeKey_of_control (by omega) hshort, hdiv, hmod, hhiDigit, hloDigit]
      rfl
    · cases h

theorem literalChar_eq_some {X rest : List Byte} {c : Symbol} (h : literalChar X = some (c, rest)) :
    isScalar c ∧ X = escapeKey c ++ rest := by
  unfold literalChar at h
  split at h
  · next c' k hhead =>
    split_ifs at h with hliteral
    cases h
    obtain ⟨hc, rfl, rest, rfl⟩ := utf8Head_eq_some hhead
    exact ⟨hc, by rw [List.drop_left, escapeKey_of_literal hliteral]⟩
  · cases h

/-- R265: KeyChar has consumed EscapeKey of the scalar value it returns. -/
theorem keyChar_eq_some {X rest : List Byte} {c : Symbol} (h : keyChar X = some (c, rest)) :
    isScalar c ∧ X = escapeKey c ++ rest := by
  cases X with
  | nil => cases h
  | cons x t =>
    rw [keyChar] at h
    split at h
    case isFalse => exact literalChar_eq_some h
    case isTrue hx =>
      subst hx
      cases t with
      | nil => cases h
      | cons x t =>
        obtain ⟨hmem, rfl⟩ | ⟨rfl, hunicode⟩ := escapeChar_cons_eq_some h
        · have hscalar : ∀ e ∈ shortEscapes, isScalar e.2 := by decide
          exact ⟨hscalar _ hmem, by rw [escapeKey_of_short hmem]; rfl⟩
        · obtain ⟨hcontrol, htext⟩ := unicodeEscape_eq_some hunicode
          exact ⟨.inl (hcontrol.le.trans (by decide)), htext⟩

/-! ## One entry -/

/-- R265 on R113: the bits read spell the text consumed. -/
theorem codeText_takeCode (X : List Byte) : codeText (takeCode X).1 ++ (takeCode X).2 = X := by
  induction X with
  | nil => rfl
  | cons x t ih =>
    rw [takeCode]
    split_ifs with hzero hone
    · rw [hzero]
      exact congrArg (chZero :: ·) ih
    · rw [hone]
      exact congrArg (chOne :: ·) ih
    · rfl

/-- R265 on R260: an entry has been consumed as SerializeTable writes it. -/
theorem parseEntry_eq_some {X rest : List Byte} {e : Symbol × Bits} (h : parseEntry X = some (e, rest)) :
    isScalar e.1 ∧ e.2 ≠ [] ∧ X = entryText e ++ rest := by
  simp only [parseEntry, Option.bind_eq_bind, Option.bind_eq_some_iff] at h
  obtain ⟨X1, h1, ⟨s, X2⟩, h2, X3, h3, X4, h4, X5, h5, h⟩ := h
  split_ifs at h with hcode
  obtain ⟨X6, h6, h⟩ := Option.bind_eq_some_iff.1 h
  cases h
  obtain ⟨hs, rfl⟩ := keyChar_eq_some h2
  obtain rfl : X = _ := expect_eq_some h1
  obtain rfl : X2 = _ := expect_eq_some h3
  obtain rfl : X3 = _ := expect_eq_some h4
  obtain rfl : X4 = _ := expect_eq_some h5
  have hcodeText : X5 = codeText (takeCode X5).1 ++ chQuote :: rest := by
    rw [← expect_eq_some h6, codeText_takeCode]
  exact ⟨hs, hcode, by simpa [entryText] using hcodeText⟩

/-! ## The entries and the table -/

/-- R265: the loop has consumed the entries it returns, with their commas, and the closing brace. -/
theorem parseEntries_eq_some {rest : List Byte} (fuel : Nat) :
    ∀ {X : List Byte} {es : Codes}, parseEntries fuel X = some (es, rest) →
      es ≠ [] ∧ (∀ e ∈ es, isScalar e.1 ∧ e.2 ≠ []) ∧ X = entriesText es ++ chClose :: rest := by
  induction fuel with
  | zero => intro X es h; cases h
  | succ fuel ih =>
    intro X es h
    rw [parseEntries, Option.bind_eq_bind, Option.bind_eq_some_iff] at h
    obtain ⟨⟨e, X1⟩, hentry, h⟩ := h
    obtain ⟨hkey, hcode, rfl⟩ := parseEntry_eq_some hentry
    dsimp only at h
    split at h
    · next X2 hcomma =>
      obtain ⟨⟨es', X3⟩, hrest, h⟩ := Option.bind_eq_some_iff.1 h
      cases h
      obtain ⟨hne, hes, rfl⟩ := ih hrest
      obtain ⟨e', es', rfl⟩ := List.exists_cons_of_ne_nil hne
      obtain rfl : X1 = _ := expect_eq_some hcomma
      exact ⟨List.cons_ne_nil _ _, List.forall_mem_cons.2 ⟨⟨hkey, hcode⟩, hes⟩, by simp [entriesText_cons_cons]⟩
    · obtain ⟨X2, hclose, h⟩ := Option.bind_eq_some_iff.1 h
      cases h
      obtain rfl : X1 = _ := expect_eq_some hclose
      exact ⟨List.cons_ne_nil _ _, List.forall_mem_cons.2 ⟨⟨hkey, hcode⟩, by simp⟩, rfl⟩

/-- R114: what ParseTable accepts is the table text of what it returns. -/
theorem parseTableText_eq_some {X : List Byte} {E : Codes} (h : parseTableText X = some E) :
    (∀ e ∈ E, isScalar e.1 ∧ e.2 ≠ []) ∧ serializeTable E = X := by
  rw [parseTableText, Option.bind_eq_bind, Option.bind_eq_some_iff] at h
  obtain ⟨X1, hopen, h⟩ := h
  obtain rfl : X = _ := expect_eq_some hopen
  split at h
  · next hclose =>
    cases h
    obtain rfl : X1 = _ := expect_eq_some hclose
    exact ⟨by simp, rfl⟩
  · cases h
  · split at h
    · next es hentries =>
      cases h
      obtain ⟨-, hes, htext⟩ := parseEntries_eq_some _ hentries
      exact ⟨hes, by rw [htext]; simp [serializeTable]⟩
    · cases h
    · cases h

/-- Settles O37: each reader of the grammar has consumed the text that its writer writes. -/
theorem parsedTextIsCanonical : Obligations.ParsedTextIsCanonical := by
  intro X E h
  obtain ⟨hE, htext⟩ := parseTableText_eq_some (orRaise_eq_ok.1 h)
  exact ⟨htext, hE⟩

end Sys2Proof.Machine
end

section
/-! PROOFS. 43_tree_builder.md: what BuildTree returns (R203 to R208). Nothing in it depends on the order of the queue:
Enqueue puts one entry into it and Pop takes one out, so the invariant speaks of the queue up to a permutation. -/

namespace Sys2Proof.Machine

/-! ## The loops of BuildTree -/

theorem enqueue_perm (prio v : Nat) (q : Queue) : (enqueue prio v q).Perm ((prio, v) :: q) := by
  refine List.perm_middle.trans ?_
  rw [List.take_append_drop]

/-- R203: the seeding loop appends one leaf for each entry. -/
theorem seed_nodes (freq : Freq) : ∀ (nodes : Arena) (q : Queue),
    (seed freq nodes q).1 = nodes ++ freq.map fun e => Node.leaf e.1 e.2 := by
  induction freq with
  | nil => simp [seed]
  | cons e freq ih => intro nodes q; rw [seed, ih]; simp

/-- R203: the seeding loop queues each leaf under its frequency. -/
theorem seed_queue (freq : Freq) : ∀ (nodes : Arena) (q : Queue),
    (seed freq nodes q).2.Perm (q ++ (freq.zipIdx nodes.length).map fun e => (e.1.2, e.2)) := by
  induction freq with
  | nil => simp [seed]
  | cons e freq ih =>
    intro nodes q
    rw [seed, List.zipIdx_cons, List.map_cons]
    refine (ih _ _).trans ?_
    rw [List.length_append, List.length_singleton]
    exact ((enqueue_perm _ _ q).append_right _).trans List.perm_middle.symm

theorem merge_cons_cons (nodes : Arena) (e1 e2 : Nat × Nat) (q : Queue) :
    merge nodes (e1 :: e2 :: q) =
      some (nodes ++ [.internal (e1.1 + e2.1) e1.2 e2.2], enqueue (e1.1 + e2.1) nodes.length q) := rfl

/-- The merging loop (R203) ends with one entry in the queue, and keeps whatever every merge keeps. -/
theorem mergeAll_of_invariant {I : Arena → Queue → Prop}
    (hmerge : ∀ nodes e1 e2 q, I nodes (e1 :: e2 :: q) →
      I (nodes ++ [.internal (e1.1 + e2.1) e1.2 e2.2]) (enqueue (e1.1 + e2.1) nodes.length q)) (n : Nat) :
    ∀ {nodes : Arena} {q : Queue}, I nodes q → q ≠ [] → q.length ≤ n + 1 →
      ∃ nodes' e, mergeAll n nodes q = some (nodes', [e]) ∧ I nodes' [e] := by
  induction n with
  | zero =>
    intro nodes q hI hne hlen
    match q with
    | [e] => exact ⟨nodes, e, rfl, hI⟩
    | _ :: _ :: _ => simp at hlen
  | succ n ih =>
    intro nodes q hI hne hlen
    match q with
    | [e] => exact ⟨nodes, e, rfl, hI⟩
    | e1 :: e2 :: q =>
      have hsize : size (e1 :: e2 :: q) > 1 := by simp [size]
      have hlength := (enqueue_perm (e1.1 + e2.1) nodes.length q).length_eq
      simp only [mergeAll, if_pos hsize, merge_cons_cons]
      refine ih (hmerge nodes e1 e2 q hI) (List.ne_nil_of_length_pos ?_) ?_
      · rw [hlength]; exact Nat.succ_pos _
      · rw [hlength]; exact Nat.le_of_succ_le_succ hlen

/-- BuildTree returns the one entry that the merging loop leaves, with whatever seeding establishes and every merge
keeps. -/
theorem buildTree_of_invariant {I : Arena → Queue → Prop} {freq : Freq} (hfreq : freq ≠ [])
    (hseed : I (seed freq [] []).1 (seed freq [] []).2)
    (hmerge : ∀ nodes e1 e2 q, I nodes (e1 :: e2 :: q) →
      I (nodes ++ [.internal (e1.1 + e2.1) e1.2 e2.2]) (enqueue (e1.1 + e2.1) nodes.length q)) :
    ∃ nodes e, buildTree freq = .ok (nodes, e.2) ∧ I nodes [e] := by
  have hqueue : (seed freq [] []).2 ≠ [] := by
    have hlength := (seed_queue freq [] []).length_eq
    have hpos := List.length_pos_of_ne_nil hfreq
    simp only [List.nil_append, List.length_map, List.length_zipIdx] at hlength
    exact List.ne_nil_of_length_pos (hlength ▸ hpos)
  obtain ⟨nodes, e, hmergeAll, hI⟩ := mergeAll_of_invariant hmerge _ hseed hqueue (Nat.le_succ _)
  refine ⟨nodes, e, ?_, hI⟩
  simp only [buildTree, size, hmergeAll, pop_cons, orStuck_some]

/-! ## The arena -/

/-- R206, R208: what holds of the arena and the queue of BuildTree on `freq` between two merges. -/
structure ArenaInv (freq : Freq) (nodes : Arena) (q : Queue) : Prop where
  /-- Each merge adds a node and takes one entry from the queue. -/
  size : nodes.length + q.length = 2 * freq.length
  leaves : freq.length ≤ nodes.length ∧ nodes.take freq.length = freq.map fun e => Node.leaf e.1 e.2
  internal : ∀ i, freq.length ≤ i → i < nodes.length →
    ∃ l r fl fr, nodes[i]? = some (.internal (fl + fr) l r) ∧ l < i ∧ r < i ∧
      nodes[l]?.map Node.freq = some fl ∧ nodes[r]?.map Node.freq = some fr
  /-- Each node so far is a child of one other, or stands in the queue, and not both. -/
  children : (nodes.flatMap Node.children ++ q.map (·.2)).Perm (List.range nodes.length)
  priority : ∀ e ∈ q, nodes[e.2]?.map Node.freq = some e.1
  total : (q.map (·.1)).sum = (freq.map (·.2)).sum

/-- A node known by its frequency stays where it is when the arena grows. -/
theorem map_freq_append {nodes : Arena} {i f : Nat} (h : nodes[i]?.map Node.freq = some f) (x : Node) :
    i < nodes.length ∧ (nodes ++ [x])[i]?.map Node.freq = some f := by
  obtain ⟨n, hn, -⟩ := Option.map_eq_some_iff.1 h
  have hi := (List.getElem?_eq_some_iff.1 hn).1
  exact ⟨hi, by rwa [List.getElem?_append_left hi]⟩

/-- The queue matters up to its order only. -/
theorem ArenaInv.of_perm {freq : Freq} {nodes : Arena} {q q' : Queue} (h : ArenaInv freq nodes q) (hq : q'.Perm q) :
    ArenaInv freq nodes q' :=
  { h with
    size := by rw [hq.length_eq, h.size]
    children := ((hq.map _).append_left _).trans h.children
    priority := fun e he => h.priority e (hq.mem_iff.1 he)
    total := by rw [(hq.map _).sum_eq, h.total] }

/-- Seeding: the arena holds the leaves alone, each of them queued. -/
theorem ArenaInv.seed (freq : Freq) : ArenaInv freq (seed freq [] []).1 (seed freq [] []).2 := by
  refine ArenaInv.of_perm ?_ (seed_queue freq [] [])
  rw [seed_nodes, List.nil_append, List.nil_append, List.length_nil]
  constructor
  case size => simp; omega
  case leaves => simp
  case internal => intro i hlow hhigh; simp at hhigh; omega
  case children =>
    have hleaves : (freq.map fun e => Node.leaf e.1 e.2).flatMap Node.children = [] := by
      refine List.flatMap_eq_nil_iff.2 fun n hn => ?_
      obtain ⟨e, -, rfl⟩ := List.mem_map.1 hn
      rfl
    have hindices : ((freq.zipIdx 0).map fun e => (e.1.2, e.2)).map (·.2) = List.range freq.length := by
      rw [List.map_map, List.range_eq_range', ← List.zipIdx_map_snd]
      rfl
    rw [hleaves, hindices, List.nil_append, List.length_map]
  case priority =>
    intro e he
    obtain ⟨⟨x, i⟩, hx, rfl⟩ := List.mem_map.1 he
    rw [List.getElem?_map, List.mem_zipIdx_iff_getElem?.1 hx]
    rfl
  case total =>
    have hcounts : ((freq.zipIdx 0).map fun e => (e.1.2, e.2)).map (·.1) = freq.map (·.2) := by
      conv_rhs => rw [← List.zipIdx_map_fst 0 freq]
      rw [List.map_map, List.map_map]
      rfl
    rw [hcounts]

/-- A merge: the new node's children are the two entries it takes from the queue. -/
theorem ArenaInv.merge {freq : Freq} {nodes : Arena} {e1 e2 : Nat × Nat} {q : Queue}
    (h : ArenaInv freq nodes (e1 :: e2 :: q)) :
    ArenaInv freq (nodes ++ [.internal (e1.1 + e2.1) e1.2 e2.2]) (enqueue (e1.1 + e2.1) nodes.length q) := by
  refine ArenaInv.of_perm ?_ (enqueue_perm _ _ q)
  obtain ⟨hp1, hp2, hq⟩ : _ ∧ _ ∧ _ := by simpa only [List.forall_mem_cons] using h.priority
  obtain ⟨hl, hl'⟩ := map_freq_append hp1 (.internal (e1.1 + e2.1) e1.2 e2.2)
  obtain ⟨hr, hr'⟩ := map_freq_append hp2 (.internal (e1.1 + e2.1) e1.2 e2.2)
  constructor
  case size =>
    have := h.size
    simp only [List.length_cons, List.length_append, List.length_nil] at this ⊢
    omega
  case leaves =>
    refine ⟨h.leaves.1.trans (by simp), ?_⟩
    rw [List.take_append_of_le_length h.leaves.1, h.leaves.2]
  case internal =>
    intro i hlow hhigh
    obtain hi | rfl : i < nodes.length ∨ i = nodes.length := by
      rw [List.length_append, List.length_singleton] at hhigh
      omega
    · obtain ⟨l, r, fl, fr, hnode, hli, hri, hfl, hfr⟩ := h.internal i hlow hi
      exact ⟨l, r, fl, fr, by rwa [List.getElem?_append_left hi], hli, hri, (map_freq_append hfl _).2,
        (map_freq_append hfr _).2⟩
    · exact ⟨e1.2, e2.2, e1.1, e2.1, List.getElem?_concat_length, hl, hr, hl', hr'⟩
  case children =>
    have hold := h.children
    simp only [List.map_cons] at hold
    rw [List.flatMap_append, List.length_append, List.length_singleton, List.range_succ, List.append_assoc]
    refine .trans ?_ (hold.append_right [nodes.length])
    rw [List.append_assoc]
    refine List.Perm.append_left _ ?_
    exact (List.perm_middle (l₁ := [e1.2, e2.2])).trans (List.perm_append_singleton _ _).symm
  case priority =>
    refine List.forall_mem_cons.2 ⟨?_, fun e he => (map_freq_append (hq e he) _).2⟩
    rw [List.getElem?_concat_length]
    rfl
  case total =>
    have hold := h.total
    simp only [List.map_cons, List.sum_cons] at hold ⊢
    omega

/-- In a finished arena the root is the last node: it is queued, and children stand below their parents. -/
theorem ArenaInv.root_eq {freq : Freq} {nodes : Arena} {e : Nat × Nat} (hfreq : freq ≠ [])
    (h : ArenaInv freq nodes [e]) : nodes.length = 2 * freq.length - 1 ∧ e.2 = 2 * freq.length - 2 := by
  have hpos := List.length_pos_of_ne_nil hfreq
  have hlength : nodes.length = 2 * freq.length - 1 := by
    have := h.size
    simp only [List.length_singleton] at this
    omega
  refine ⟨hlength, ?_⟩
  have hlast : 2 * freq.length - 2 ∈ nodes.flatMap Node.children ++ [e].map (·.2) :=
    h.children.mem_iff.2 (List.mem_range.2 (by omega))
  obtain hchild | hroot := List.mem_append.1 hlast
  · obtain ⟨n, hn, hmem⟩ := List.mem_flatMap.1 hchild
    obtain ⟨i, hi, rfl⟩ := List.getElem_of_mem hn
    by_cases hleaf : i < freq.length
    · have hnode : nodes[i]? = (freq.map fun e => Node.leaf e.1 e.2)[i]? := by
        rw [← h.leaves.2, List.getElem?_take_of_lt hleaf]
      rw [List.getElem?_eq_getElem hi, List.getElem?_map, List.getElem?_eq_getElem hleaf] at hnode
      rw [Option.some.inj hnode] at hmem
      exact absurd hmem List.not_mem_nil
    · obtain ⟨l, r, fl, fr, hnode, hl, hr, -⟩ := h.internal i (Nat.not_lt.1 hleaf) hi
      rw [List.getElem?_eq_getElem hi] at hnode
      rw [Option.some.inj hnode, Node.children] at hmem
      simp only [List.mem_cons, List.not_mem_nil, or_false] at hmem
      omega
  · exact (List.mem_singleton.1 hroot).symm

/-- Settles O28: the invariant of the arena at the end of the merging loop, where one entry, the root, is queued. -/
theorem treeOfFrequencies : Obligations.TreeOfFrequencies := by
  intro freq hfreq
  obtain ⟨nodes, e, hbuild, h⟩ :=
    buildTree_of_invariant hfreq (ArenaInv.seed freq) fun _ _ _ _ h => ArenaInv.merge h
  obtain ⟨hlength, hroot⟩ := h.root_eq hfreq
  have htotal : e.1 = (freq.map (·.2)).sum := by simpa using h.total
  have hpos := List.length_pos_of_ne_nil hfreq
  refine ⟨nodes, hroot ▸ hbuild, hlength, h.leaves.2, h.internal, ?children, ?total⟩
  case children =>
    have hsucc : nodes.length = 2 * freq.length - 2 + 1 := by omega
    have hall := h.children
    rw [hsucc, List.range_succ, List.map_singleton, hroot] at hall
    exact (List.perm_append_right_iff _).1 hall
  case total => rw [← htotal, ← hroot]; exact h.priority e List.mem_cons_self

end Sys2Proof.Machine
end

section
/-! PROOFS. 44_code_tables.md section 1: the code table of a frequency table (R220 to R223). The arena of BuildTree
spells out a binary tree whose leaves are the entries of FREQ, the codes are the tree's paths, and each claim about them is an
induction on the tree. -/

namespace Sys2Proof.Machine

/-! ## Code trees -/

/-- A binary tree with an entry of FREQ at each leaf. -/
inductive CodeTree where
  | leaf (symbol : Symbol) (freq : Nat)
  | node (left right : CodeTree)

namespace CodeTree

/-- The entries at the leaves, left to right. -/
def leaves : CodeTree → Freq
  | .leaf s f => [(s, f)]
  | .node l r => l.leaves ++ r.leaves

/-- The paths to the leaves: 0 to the left, 1 to the right (44_code_tables.md R220). -/
def codes : CodeTree → Codes
  | .leaf s _ => [(s, [])]
  | .node l r => l.codes.map (fun e => (e.1, false :: e.2)) ++ r.codes.map (fun e => (e.1, true :: e.2))

/-- The code table: a tree that is one leaf gets the code "0" (44_code_tables.md R221). -/
def table : CodeTree → Codes
  | .leaf s _ => [(s, [false])]
  | .node l r => (node l r).codes

end CodeTree

/-- The subtree of the arena at an index. -/
def Spells (nodes : Arena) : Nat → CodeTree → Prop
  | n, .leaf s f => nodes[n]? = some (.leaf s f)
  | n, .node l r => ∃ f i j, nodes[n]? = some (.internal f i j) ∧ i < n ∧ j < n ∧ Spells nodes i l ∧ Spells nodes j r

/-- A subtree stays where it is when the arena grows. -/
theorem Spells.append {nodes : Arena} {t : CodeTree} (x : Node) :
    ∀ {n : Nat}, Spells nodes n t → n < nodes.length ∧ Spells (nodes ++ [x]) n t := by
  induction t with
  | leaf s f =>
    intro n h
    have hn : n < nodes.length := (List.getElem?_eq_some_iff.1 h).1
    exact ⟨hn, (List.getElem?_append_left hn).trans h⟩
  | node l r ihl ihr =>
    rintro n ⟨f, i, j, hnode, hi, hj, hl, hr⟩
    have hn : n < nodes.length := (List.getElem?_eq_some_iff.1 hnode).1
    exact ⟨hn, f, i, j, (List.getElem?_append_left hn).trans hnode, hi, hj, (ihl hl).2, (ihr hr).2⟩

/-- R220: Walk returns the paths below its node, each after the path to it; children stand below their parents, so the
node's index bounds the depth. -/
theorem walk_of_spells {nodes : Arena} {t : CodeTree} :
    ∀ {n fuel : Nat} (path : Bits), Spells nodes n t → n < fuel →
      walk nodes fuel n path = .ok (t.codes.map fun e => (e.1, path ++ e.2)) := by
  induction t with
  | leaf s f =>
    intro n fuel path h hfuel
    obtain ⟨fuel, rfl⟩ := Nat.exists_eq_add_one.2 (Nat.zero_lt_of_lt hfuel)
    have hleaf : nodes[n]? = some (.leaf s f) := h
    simp [walk, hleaf, CodeTree.codes]
  | node l r ihl ihr =>
    rintro n fuel path ⟨f, i, j, hnode, hi, hj, hl, hr⟩ hfuel
    obtain ⟨fuel, rfl⟩ := Nat.exists_eq_add_one.2 (Nat.zero_lt_of_lt hfuel)
    simp [walk, hnode, ihl _ hl (show i < fuel by omega), ihr _ hr (show j < fuel by omega), CodeTree.codes,
      Function.comp_def]

/-- R220, R221: GenCodes returns the table of the tree at the root. -/
theorem genCodes_of_spells {nodes : Arena} {root : Nat} {t : CodeTree} (h : Spells nodes root t) :
    genCodes nodes root = .ok t.table := by
  cases t with
  | leaf s f =>
    have hleaf : nodes[root]? = some (.leaf s f) := h
    simp only [genCodes, hleaf, CodeTree.table]
  | node l r =>
    obtain ⟨hroot, -⟩ := Spells.append (.leaf 0 0) h
    have hwalk := walk_of_spells [] h hroot
    obtain ⟨f, i, j, hnode, -⟩ := h
    simpa [genCodes, hnode, CodeTree.table] using hwalk

/-! ## The tree of BuildTree -/

/-- Between two merges each queued node spells a tree, and the leaves of these trees are the entries of FREQ. -/
def Forest (freq : Freq) (nodes : Arena) (q : Queue) : Prop :=
  ∃ T : Nat → CodeTree, (∀ e ∈ q, Spells nodes e.2 (T e.2)) ∧ (q.flatMap fun e => (T e.2).leaves).Perm freq

theorem Forest.of_perm {freq : Freq} {nodes : Arena} {q q' : Queue} (h : Forest freq nodes q) (hq : q'.Perm q) :
    Forest freq nodes q' := by
  obtain ⟨T, hspells, hleaves⟩ := h
  exact ⟨T, fun e he => hspells e (hq.mem_iff.1 he), (hq.flatMap_right _).trans hleaves⟩

/-- The tree of one leaf that seeding makes of an entry of FREQ. -/
def leafAt (freq : Freq) (n : Nat) : CodeTree :=
  match freq[n]? with
  | some e => .leaf e.1 e.2
  | none => .leaf 0 0

/-- Seeding: a forest of single leaves. -/
theorem Forest.seed (freq : Freq) : Forest freq (seed freq [] []).1 (seed freq [] []).2 := by
  refine Forest.of_perm ?_ (seed_queue freq [] [])
  rw [seed_nodes, List.nil_append, List.nil_append, List.length_nil]
  have hat : ∀ x ∈ freq.zipIdx 0, freq[x.2]? = some x.1 := fun x hx => List.mem_zipIdx_iff_getElem?.1 hx
  refine ⟨leafAt freq, fun e he => ?_, ?_⟩
  · obtain ⟨x, hx, rfl⟩ := List.mem_map.1 he
    rw [leafAt, hat x hx]
    exact List.getElem?_map.trans (congrArg _ (hat x hx))
  · have hleaves : ((freq.zipIdx 0).flatMap fun x => (leafAt freq x.2).leaves) =
        (freq.zipIdx 0).flatMap fun x => [x.1] :=
      List.flatMap_congr fun x hx => by rw [leafAt, hat x hx]; rfl
    rw [List.flatMap_map, hleaves, ← List.map_eq_flatMap, List.zipIdx_map_fst]

/-- A merge joins the first two trees of the queue under the new node. -/
theorem Forest.merge {freq : Freq} {nodes : Arena} {e1 e2 : Nat × Nat} {q : Queue}
    (h : Forest freq nodes (e1 :: e2 :: q)) :
    Forest freq (nodes ++ [.internal (e1.1 + e2.1) e1.2 e2.2]) (enqueue (e1.1 + e2.1) nodes.length q) := by
  refine Forest.of_perm ?_ (enqueue_perm _ _ q)
  obtain ⟨T, hspells, hleaves⟩ := h
  obtain ⟨h1, h2, hq⟩ : _ ∧ _ ∧ _ := by simpa only [List.forall_mem_cons] using hspells
  obtain ⟨hl, hl'⟩ := h1.append (.internal (e1.1 + e2.1) e1.2 e2.2)
  obtain ⟨hr, hr'⟩ := h2.append (.internal (e1.1 + e2.1) e1.2 e2.2)
  have hold : ∀ e ∈ q, Function.update T nodes.length (.node (T e1.2) (T e2.2)) e.2 = T e.2 := fun e he =>
    Function.update_of_ne (hq e he |>.append (.leaf 0 0)).1.ne _ _
  refine ⟨Function.update T nodes.length (.node (T e1.2) (T e2.2)), List.forall_mem_cons.2 ⟨?_, fun e he => ?_⟩, ?_⟩
  · rw [Function.update_self]
    exact ⟨_, _, _, List.getElem?_concat_length, hl, hr, hl', hr'⟩
  · rw [hold e he]
    exact ((hq e he).append _).2
  · have hrest : (q.flatMap fun e => (Function.update T nodes.length (.node (T e1.2) (T e2.2)) e.2).leaves) =
        q.flatMap fun e => (T e.2).leaves := List.flatMap_congr fun e he => by rw [hold e he]
    rw [List.flatMap_cons, Function.update_self, hrest]
    simpa [CodeTree.leaves] using hleaves

/-- The code table of a frequency table is that of a tree whose leaves are its entries. -/
theorem codesOf_eq_table {freq : Freq} (hfreq : freq ≠ []) :
    ∃ t : CodeTree, t.leaves.Perm freq ∧ codesOf freq = .ok t.table := by
  obtain ⟨nodes, e, hbuild, T, hspells, hleaves⟩ :=
    buildTree_of_invariant hfreq (Forest.seed freq) fun _ _ _ _ h => Forest.merge h
  refine ⟨T e.2, by simpa using hleaves, ?_⟩
  rw [codesOf, hbuild, ok_bind]
  exact genCodes_of_spells (hspells e List.mem_cons_self)

/-! ## The codes of a tree -/

namespace CodeTree

theorem length_leaves_pos (t : CodeTree) : 0 < t.leaves.length := by
  induction t with
  | leaf s f => exact Nat.zero_lt_one
  | node l r ihl ihr => simp only [leaves, List.length_append]; omega

theorem map_fst_codes (t : CodeTree) : t.codes.map (·.1) = t.leaves.map (·.1) := by
  induction t with
  | leaf s f => rfl
  | node l r ihl ihr => simp [codes, leaves, ← ihl, ← ihr, Function.comp_def]

theorem map_fst_table (t : CodeTree) : t.table.map (·.1) = t.leaves.map (·.1) := by
  cases t with
  | leaf s f => rfl
  | node l r => exact map_fst_codes _

/-- R207: a path is shorter than the number of leaves. -/
theorem length_code_lt (t : CodeTree) : ∀ e ∈ t.codes, e.2.length < t.leaves.length := by
  induction t with
  | leaf s f => simp [codes, leaves]
  | node l r ihl ihr =>
    have hl := l.length_leaves_pos
    have hr := r.length_leaves_pos
    intro e he
    simp only [codes, List.mem_append, List.mem_map] at he
    simp only [leaves, List.length_append]
    obtain ⟨x, hx, rfl⟩ | ⟨x, hx, rfl⟩ := he
    · have := ihl x hx
      simp only [List.length_cons]
      omega
    · have := ihr x hx
      simp only [List.length_cons]
      omega

theorem ne_nil_of_mem_node {l r : CodeTree} {e : Symbol × Bits} (he : e ∈ (node l r).codes) : e.2 ≠ [] := by
  simp only [codes, List.mem_append, List.mem_map] at he
  obtain ⟨x, -, rfl⟩ | ⟨x, -, rfl⟩ := he <;> exact List.cons_ne_nil _ _

/-- R223: of two different places in the table neither has a code that the other's begins with. -/
theorem pairwise_codes (t : CodeTree) : t.codes.Pairwise fun a b => ¬a.2 <+: b.2 ∧ ¬b.2 <+: a.2 := by
  induction t with
  | leaf s f => exact List.pairwise_singleton _ _
  | node l r ihl ihr =>
    refine List.pairwise_append.2 ⟨?_, ?_, ?_⟩
    · exact List.pairwise_map.2 (ihl.imp fun h => by simpa [List.cons_prefix_cons] using h)
    · exact List.pairwise_map.2 (ihr.imp fun h => by simpa [List.cons_prefix_cons] using h)
    · intro a ha b hb
      obtain ⟨x, -, rfl⟩ := List.mem_map.1 ha
      obtain ⟨y, -, rfl⟩ := List.mem_map.1 hb
      simp [List.cons_prefix_cons]

/-- R223 item 6: each inner node halves the weight of what is below it. -/
theorem kraft_codes (t : CodeTree) : (t.codes.map fun e => (1 / 2 : ℚ) ^ e.2.length).sum = 1 := by
  induction t with
  | leaf s f => simp [codes]
  | node l r ihl ihr =>
    have hhalf : ∀ C : Codes, (C.map fun e => (1 / 2 : ℚ) ^ (e.2.length + 1)).sum =
        (1 / 2) * (C.map fun e => (1 / 2 : ℚ) ^ e.2.length).sum := fun C => by
      rw [← List.sum_map_mul_left]
      simp only [pow_succ']
    simp only [codes, List.map_append, List.map_map, Function.comp_def, List.length_cons, List.sum_append, hhalf,
      ihl, ihr]
    norm_num

end CodeTree

/-- Codes of which none begins with another are prefix-free in the sense of R223. -/
theorem prefixFree_of_pairwise {codes : Codes} (h : codes.Pairwise fun a b => ¬a.2 <+: b.2 ∧ ¬b.2 <+: a.2) :
    PrefixFree codes := by
  refine ⟨List.pairwise_map.2 (h.imp fun {a b} hab (heq : a.2 = b.2) => hab.1 (heq ▸ List.prefix_rfl)), ?_⟩
  have hnone : ∀ {s t : Bits}, ¬s <+: t → properPrefix s t = false := fun hst =>
    Bool.eq_false_of_not_eq_true fun hproper => hst (properPrefix_iff.1 hproper).1
  exact List.Pairwise.forall_of_forall_of_flip (R := fun a b : Symbol × Bits => properPrefix a.2 b.2 = false)
    (fun a _ => by simp [properPrefix]) (h.imp fun hab => hnone hab.1) (h.imp fun hab => hnone hab.2)

theorem CodeTree.prefixFree_table (t : CodeTree) : PrefixFree t.table := by
  cases t with
  | leaf s f => exact prefixFree_of_pairwise (List.pairwise_singleton _ _)
  | node l r => exact prefixFree_of_pairwise (node l r).pairwise_codes

/-- A frequency table of two or more entries makes a tree with an inner root. -/
theorem codesOf_eq_codes {freq : Freq} {codes : Codes} (hfreq : 2 ≤ freq.length) (h : codesOf freq = .ok codes) :
    ∃ l r : CodeTree, codes = (CodeTree.node l r).codes := by
  obtain ⟨t, hleaves, hcodes⟩ := codesOf_eq_table (List.ne_nil_of_length_pos (Nat.zero_lt_of_lt hfreq))
  rw [hcodes] at h
  cases h
  cases t with
  | leaf s f =>
    rw [← hleaves.length_eq] at hfreq
    exact absurd hfreq (by simp [CodeTree.leaves])
  | node l r => exact ⟨l, r, rfl⟩

/-- Settles O29: the paths of a tree with k leaves. -/
theorem codeTableIsPrefixFree : Obligations.CodeTableIsPrefixFree := by
  intro freq hfreq
  obtain ⟨t, hleaves, hcodes⟩ := codesOf_eq_table hfreq
  refine ⟨t.table, hcodes, t.map_fst_table ▸ hleaves.map _, t.prefixFree_table, fun e he => ?_⟩
  rw [← hleaves.length_eq]
  cases t with
  | leaf s f =>
    rw [List.mem_singleton.1 he]
    exact ⟨Nat.le_refl _, Nat.le_max_left _ _⟩
  | node l r =>
    have hlt := (CodeTree.node l r).length_code_lt e he
    have hne : e.2 ≠ [] := CodeTree.ne_nil_of_mem_node he
    exact ⟨List.length_pos_of_ne_nil hne, (Nat.le_sub_one_of_lt hlt).trans (Nat.le_max_right _ _)⟩

/-- Settles O30: with two or more symbols the codes are all the paths of a tree. -/
theorem kraftSumIsOne : Obligations.KraftSumIsOne := by
  intro freq codes hfreq h
  obtain ⟨l, r, rfl⟩ := codesOf_eq_codes hfreq h
  exact (CodeTree.node l r).kraft_codes

end Sys2Proof.Machine
end

section
/-! PROOFS. 47_symbol_decoder.md: decoding inverts the concatenation of codes (R295), a complete table never raises
BAD_CODE (R291), and the tree walker (R296). -/

namespace Sys2Proof.Machine

/-! ## What decoding asks of a table -/

theorem hasLonger_iff {rev : RevTable} {c : Bits} :
    rev.hasLonger c = true ↔ ∃ d x, (d, x) ∈ rev ∧ c <+: d ∧ c ≠ d := by
  simp [RevTable.hasLonger, List.any_eq_true, properPrefix_iff]

theorem hasLonger_invert {E : Codes} {c : Bits} :
    (invert E).hasLonger c = true ↔ ∃ e ∈ E, c <+: e.2 ∧ c ≠ e.2 := by
  rw [hasLonger_iff]
  constructor
  · rintro ⟨d, x, hmem, hlt⟩
    exact ⟨(x, d), mem_invert.1 hmem, hlt⟩
  · rintro ⟨⟨x, d⟩, hmem, hlt⟩
    exact ⟨d, x, mem_invert.2 hmem, hlt⟩

/-- A bit string that is looked up in vain is no code of the table. -/
theorem symbolOf_invert_eq_none {E : Codes} {c : Bits} : (invert E).symbolOf c = none ↔ ∀ e ∈ E, e.2 ≠ c := by
  simp only [RevTable.symbolOf, List.lookup_eq_none_iff, invert, List.forall_mem_map]
  exact forall₂_congr fun _ _ => bne_iff_ne.trans ne_comm

/-- Short of its end, a code of a prefix-free table is no code itself. -/
theorem symbolOf_of_properPrefix {E : Codes} (hE : PrefixFree E) {e : Symbol × Bits} (he : e ∈ E) {c : Bits}
    (hc : c <+: e.2) (hne : c ≠ e.2) : (invert E).symbolOf c = none := by
  refine symbolOf_invert_eq_none.2 fun d hd hdc => ?_
  subst hdc
  exact absurd (properPrefix_iff.2 ⟨hc, hne⟩) (by simp [hE.2 d hd e he])

/-! ## Decoding a concatenation of codes -/

theorem decodeFrom_of_symbol {p : Params} {rev : RevTable} {acc : Bits} {b : Bool} {c : Symbol}
    (h : rev.symbolOf (acc ++ [b]) = some c) (S : Bits) (out : List Byte) :
    decodeFrom p rev (b :: S) acc out = (emit p out c >>= fun out' => decodeFrom p rev S [] out') := by
  cases hemit : emit p out c <;> simp only [decodeFrom, h, hemit, ok_bind, error_bind]

theorem decodeFrom_of_longer {p : Params} {rev : RevTable} {acc : Bits} {b : Bool}
    (h : rev.symbolOf (acc ++ [b]) = none) (hlonger : rev.hasLonger (acc ++ [b]) = true) (S : Bits) (out : List Byte) :
    decodeFrom p rev (b :: S) acc out = decodeFrom p rev S (acc ++ [b]) out := by
  rw [decodeFrom, h]
  exact if_pos hlonger

/-- R290: from any point inside a code, the rest of the code is consumed and its symbol is emitted. -/
theorem decodeFrom_rest_of_code (p : Params) {E : Codes} (hE : PrefixFree E) {s : Symbol} {c : Bits} (hmem : (s, c) ∈ E)
    (S : Bits) (out : List Byte) (rest : Bits) :
    ∀ acc : Bits, acc ++ rest = c → rest ≠ [] →
      decodeFrom p (invert E) (rest ++ S) acc out =
        (emit p out s >>= fun out' => decodeFrom p (invert E) S [] out') := by
  induction rest with
  | nil => intro acc _ hne; exact absurd rfl hne
  | cons b rest ih =>
    intro acc hacc _
    have hnext : acc ++ [b] ++ rest = c := by simpa using hacc
    by_cases hrest : rest = []
    · have hcode : (s, acc ++ [b]) ∈ E := by rwa [← hnext, hrest, List.append_nil] at hmem
      rw [hrest, List.cons_append, List.nil_append, decodeFrom_of_symbol ((symbolOf_invert hE.1).2 hcode)]
    · have hle : acc ++ [b] <+: c := ⟨rest, hnext⟩
      have hne : acc ++ [b] ≠ c := fun heq => hrest (List.append_right_eq_self.1 (hnext.trans heq.symm))
      rw [List.cons_append, decodeFrom_of_longer (symbolOf_of_properPrefix hE hmem hle hne)
        (hasLonger_invert.2 ⟨_, hmem, hle, hne⟩)]
      exact ih _ hnext hrest

theorem concatCodes_cons_eq_ok {codes : Codes} {s : Symbol} {syms : List Symbol} {bits : Bits}
    (h : concatCodes codes (s :: syms) = .ok bits) :
    ∃ c rest, (s, c) ∈ codes ∧ concatCodes codes syms = .ok rest ∧ bits = c ++ rest := by
  simp only [concatCodes, bind_eq_ok, Except.ok.injEq] at h
  obtain ⟨c, hc, rest, hrest, rfl⟩ := h
  cases hlookup : codes.lookup s with
  | none => rw [hlookup] at hc; exact absurd hc (stuckAt_ne_ok _ _)
  | some c' =>
    rw [hlookup] at hc
    cases hc
    exact ⟨c, rest, mem_of_lookup_eq_some hlookup, hrest, rfl⟩

theorem emit_of_le {p : Params} {out : List Byte} {c : Symbol} (h : out.length + (utf8Encode c).length ≤ p.outBytes) :
    emit p out c = .ok (out ++ utf8Encode c) :=
  emit_eq_ok.2 ⟨h, rfl⟩

theorem emit_of_gt {p : Params} {out : List Byte} {c : Symbol} (h : out.length + (utf8Encode c).length > p.outBytes) :
    emit p out c = raise .capOutput :=
  if_pos h

/-- R295: the symbols' bytes go behind what is already out, unless they pass P_OUT_BYTES. -/
theorem decodeFrom_concatCodes (p : Params) {E : Codes} (hE : PrefixFree E) (hcodes : ∀ e ∈ E, e.2 ≠ [])
    (syms : List Symbol) :
    ∀ {bits : Bits} {out : List Byte}, concatCodes E syms = .ok bits → out.length ≤ p.outBytes →
      decodeFrom p (invert E) bits [] out =
        if out.length + (utf8EncodeAll syms).length ≤ p.outBytes then .ok (out ++ utf8EncodeAll syms)
        else raise .capOutput := by
  induction syms with
  | nil =>
    intro bits out h hout
    cases h
    simp [decodeFrom, hout]
  | cons s syms ih =>
    intro bits out h hout
    obtain ⟨c, rest, hmem, hrest, rfl⟩ := concatCodes_cons_eq_ok h
    rw [decodeFrom_rest_of_code p hE hmem rest out c [] rfl (hcodes _ hmem), utf8EncodeAll_cons, List.length_append]
    by_cases hfits : out.length + (utf8Encode s).length ≤ p.outBytes
    · rw [emit_of_le hfits, ok_bind, ih hrest (by rwa [List.length_append]), List.length_append, Nat.add_assoc,
        List.append_assoc]
    · rw [emit_of_gt (Nat.lt_of_not_le hfits), raise_bind, if_neg (by omega)]

/-- Settles O41: an accepted table is prefix-free, so the codes are read back one by one. -/
theorem decodeOfConcatenatedCodes : Obligations.DecodeOfConcatenatedCodes := by
  intro p codes rev syms bits hrev hcodes hbits
  obtain ⟨-, -, -, -, hfree, rfl⟩ := buildReverse_eq_ok.1 hrev
  have hdecode := decodeFrom_concatCodes p hfree hcodes syms (out := []) hbits (Nat.zero_le _)
  simpa [decodeSymbols] using hdecode

/-! ## A complete table -/

namespace CodeTree

theorem mem_codes_node {l r : CodeTree} {e : Symbol × Bits} :
    e ∈ (node l r).codes ↔ ∃ b, ∃ x ∈ (cond b r l).codes, e = (x.1, b :: x.2) := by
  simp [codes, Bool.exists_bool, eq_comm]

theorem exists_mem_codes (t : CodeTree) : ∃ e, e ∈ t.codes := by
  have hlength := congrArg List.length t.map_fst_codes
  rw [List.length_map, List.length_map] at hlength
  exact List.exists_mem_of_length_pos (hlength ▸ t.length_leaves_pos)

/-- R291: either bit after the path to an inner node leads to a node. -/
theorem exists_code_extending {t : CodeTree} (b : Bool) :
    ∀ {acc : Bits}, (∃ e ∈ t.codes, acc <+: e.2 ∧ acc ≠ e.2) → ∃ e ∈ t.codes, acc ++ [b] <+: e.2 := by
  induction t with
  | leaf s f =>
    rintro acc ⟨e, he, hle, hne⟩
    rw [List.mem_singleton.1 he] at hle hne
    exact absurd (List.prefix_nil.1 hle) hne
  | node l r ihl ihr =>
    rintro acc ⟨e, he, hle, hne⟩
    obtain ⟨b', x, hx, rfl⟩ := mem_codes_node.1 he
    cases acc with
    | nil =>
      obtain ⟨y, hy⟩ := exists_mem_codes (cond b r l)
      exact ⟨_, mem_codes_node.2 ⟨b, y, hy, rfl⟩, by simp⟩
    | cons a acc =>
      obtain ⟨rfl, hrest⟩ := List.cons_prefix_cons.1 hle
      have hinner : ∃ e ∈ (cond a r l).codes, acc <+: e.2 ∧ acc ≠ e.2 := ⟨x, hx, hrest, fun heq => hne (by rw [heq])⟩
      obtain ⟨y, hy, hext⟩ : ∃ e ∈ (cond a r l).codes, acc ++ [b] <+: e.2 := by
        cases a with
        | false => exact ihl hinner
        | true => exact ihr hinner
      exact ⟨_, mem_codes_node.2 ⟨a, y, hy, rfl⟩, List.cons_prefix_cons.2 ⟨rfl, hext⟩⟩

end CodeTree

/-- R291: as long as the bits read lead to an inner node, every next bit leads to a code or to an inner node. -/
theorem decodeFrom_ne_badCode (p : Params) {E : Codes} (hroot : (invert E).hasLonger [] = true)
    (hcomplete : ∀ acc b, (invert E).hasLonger acc = true → ∃ e ∈ E, acc ++ [b] <+: e.2) (S : Bits) :
    ∀ {acc : Bits} {out : List Byte}, (invert E).hasLonger acc = true →
      decodeFrom p (invert E) S acc out ≠ raise .badCode := by
  induction S with
  | nil =>
    intro acc out _
    rw [decodeFrom]
    split_ifs
    · exact (raise_ne_ok _ _).symm
    · exact mt raise_inj.1 (by decide)
  | cons b S ih =>
    intro acc out hacc
    cases hsymbol : (invert E).symbolOf (acc ++ [b]) with
    | some c =>
      rw [decodeFrom_of_symbol hsymbol]
      by_cases hfits : out.length + (utf8Encode c).length ≤ p.outBytes
      · rw [emit_of_le hfits, ok_bind]
        exact ih hroot
      · rw [emit_of_gt (Nat.lt_of_not_le hfits), raise_bind]
        exact mt raise_inj.1 (by decide)
    | none =>
      obtain ⟨e, he, hle⟩ := hcomplete acc b hacc
      have hlonger : (invert E).hasLonger (acc ++ [b]) = true :=
        hasLonger_invert.2 ⟨e, he, hle, (symbolOf_invert_eq_none.1 hsymbol e he).symm⟩
      rw [decodeFrom_of_longer hsymbol hlonger]
      exact ih hlonger

/-- Settles O42: the code table of two or more symbols is the set of paths of a tree with an inner root. -/
theorem completeTableNeverRaisesBadCode : Obligations.CompleteTableNeverRaisesBadCode := by
  intro p freq codes S hfreq hcodes
  obtain ⟨l, r, rfl⟩ := codesOf_eq_codes hfreq hcodes
  have hroot : (invert (CodeTree.node l r).codes).hasLonger [] = true := by
    obtain ⟨e, he⟩ := CodeTree.exists_mem_codes (.node l r)
    exact hasLonger_invert.2 ⟨e, he, List.nil_prefix, (CodeTree.ne_nil_of_mem_node he).symm⟩
  exact decodeFrom_ne_badCode p hroot
    (fun acc b hacc => CodeTree.exists_code_extending b (hasLonger_invert.1 hacc)) S hroot

/-! ## The tree walker -/

namespace Trie

/-- The place in the trie at the end of a path. -/
def follow (t : Trie) (path : Bits) : Trie := path.foldl child t

@[simp] theorem follow_nil (t : Trie) : t.follow [] = t := rfl

@[simp] theorem follow_cons (t : Trie) (b : Bool) (path : Bits) : t.follow (b :: path) = (t.child b).follow path := rfl

theorem follow_concat (t : Trie) (path : Bits) (b : Bool) : t.follow (path ++ [b]) = (t.follow path).child b := by
  simp [follow]

theorem follow_missing (path : Bits) : missing.follow path = missing := by
  induction path with
  | nil => rfl
  | cons b path ih => cases b <;> exact ih

@[simp] theorem insert_nil (s : Symbol) (t : Trie) : insert s [] t = leaf s := by
  cases t <;> rfl

/-- The first bit of a code makes the place an inner node, whatever it was. -/
theorem insert_cons (s : Symbol) (b : Bool) (c : Bits) (t : Trie) :
    insert s (b :: c) t =
      cond b (node (t.child false) (insert s c (t.child true))) (node (insert s c (t.child false)) (t.child true)) := by
  cases b <;> cases t <;> rfl

theorem child_insert_cons_self (s : Symbol) (b : Bool) (c : Bits) (t : Trie) :
    (insert s (b :: c) t).child b = insert s c (t.child b) := by
  rw [insert_cons]
  cases b <;> rfl

theorem child_insert_cons_of_ne (s : Symbol) {b b' : Bool} (h : b' ≠ b) (c : Bits) (t : Trie) :
    (insert s (b :: c) t).child b' = t.child b' := by
  obtain rfl : b' = !b := Bool.eq_not_of_ne h
  rw [insert_cons]
  cases b <;> rfl

/-! What stands at a path after a code was added: by how the path lies to the code. -/

theorem follow_insert_self (s : Symbol) (c : Bits) : ∀ t : Trie, (insert s c t).follow c = leaf s := by
  induction c with
  | nil => exact insert_nil s
  | cons b c ih => intro t; rw [follow_cons, child_insert_cons_self, ih]

theorem follow_insert_of_above (s : Symbol) (path : Bits) :
    ∀ {c : Bits} (t : Trie), path <+: c → path ≠ c → ∃ z o, (insert s c t).follow path = node z o := by
  induction path with
  | nil =>
    intro c t _ hne
    obtain ⟨b, c, rfl⟩ := List.exists_cons_of_ne_nil hne.symm
    rw [follow_nil, insert_cons]
    cases b <;> exact ⟨_, _, rfl⟩
  | cons b path ih =>
    rintro _ t ⟨rest, rfl⟩ hne
    rw [List.cons_append, follow_cons, child_insert_cons_self]
    exact ih _ (List.prefix_append _ _) fun heq => hne (congrArg (b :: ·) heq)

theorem follow_insert_of_below (s : Symbol) (c : Bits) :
    ∀ {path : Bits} (t : Trie), c <+: path → c ≠ path → (insert s c t).follow path = missing := by
  induction c with
  | nil =>
    intro path t _ hne
    obtain ⟨b, path, rfl⟩ := List.exists_cons_of_ne_nil hne.symm
    rw [insert_nil, follow_cons]
    cases b <;> exact follow_missing path
  | cons b c ih =>
    rintro _ t ⟨rest, rfl⟩ hne
    rw [List.cons_append, follow_cons, child_insert_cons_self]
    exact ih _ (List.prefix_append _ _) fun heq => hne (congrArg (b :: ·) heq)

theorem follow_insert_of_apart (s : Symbol) (path : Bits) :
    ∀ {c : Bits} (t : Trie), ¬path <+: c → ¬c <+: path → (insert s c t).follow path = t.follow path := by
  induction path with
  | nil => intro c t habove; exact absurd List.nil_prefix habove
  | cons b path ih =>
    intro c t habove hbelow
    cases c with
    | nil => exact absurd List.nil_prefix hbelow
    | cons b' c =>
      by_cases hb : b = b'
      · subst hb
        simp only [List.cons_prefix_cons, true_and] at habove hbelow
        rw [follow_cons, follow_cons, child_insert_cons_self, ih _ habove hbelow]
      · rw [follow_cons, follow_cons, child_insert_cons_of_ne s hb]

/-- R296: the trie has a leaf at each code, an inner node at each place on the way to one, and nothing elsewhere. -/
structure Represents (t : Trie) (rev : RevTable) : Prop where
  code : ∀ {path s}, rev.symbolOf path = some s → t.follow path = leaf s
  inner : ∀ {path}, rev.symbolOf path = none → rev.hasLonger path = true → ∃ z o, t.follow path = node z o
  outside : ∀ {path}, rev.symbolOf path = none → rev.hasLonger path = false → t.follow path = missing

end Trie

theorem RevTable.symbolOf_concat (rev : RevTable) (c : Bits) (s : Symbol) (path : Bits) :
    RevTable.symbolOf (rev ++ [(c, s)]) path = (rev.symbolOf path).or (if path = c then some s else none) := by
  rw [RevTable.symbolOf, RevTable.symbolOf, List.lookup_append]
  by_cases h : path = c
  · simp [h]
  · simp [List.lookup_cons, beq_false_of_ne h, h]

theorem mem_of_symbolOf {rev : RevTable} {path : Bits} {s : Symbol} (h : rev.symbolOf path = some s) :
    (path, s) ∈ rev := by
  obtain ⟨l₁, l₂, rfl, -⟩ := List.lookup_eq_some_iff.1 h
  simp

/-- Adding a code that no other begins with, and that begins with no other. -/
theorem Trie.Represents.insert {t : Trie} {rev : RevTable} (h : t.Represents rev) {c : Bits} (s : Symbol)
    (hfree : ∀ r ∈ rev, ¬r.1 <+: c ∧ ¬c <+: r.1) : (Trie.insert s c t).Represents (rev ++ [(c, s)]) := by
  have hlonger : ∀ path, RevTable.hasLonger (rev ++ [(c, s)]) path = (rev.hasLonger path || properPrefix path c) := by
    simp [RevTable.hasLonger]
  constructor
  case code =>
    intro path x hx
    rw [RevTable.symbolOf_concat] at hx
    cases hold : rev.symbolOf path with
    | some y =>
      obtain ⟨habove, hbelow⟩ := hfree _ (mem_of_symbolOf hold)
      rw [Trie.follow_insert_of_apart s path t habove hbelow, h.code hold]
      simpa [hold] using hx
    | none =>
      obtain ⟨rfl, rfl⟩ : path = c ∧ s = x := by simpa [hold] using hx
      exact Trie.follow_insert_self s path t
  case inner =>
    intro path hnone hlong
    obtain ⟨hold, hne⟩ : rev.symbolOf path = none ∧ path ≠ c := by simpa [RevTable.symbolOf_concat] using hnone
    by_cases habove : path <+: c
    · exact Trie.follow_insert_of_above s path t habove hne
    · have hlongOld : rev.hasLonger path = true := by
        rw [hlonger, Bool.or_eq_true, properPrefix_iff] at hlong
        exact hlong.resolve_right fun hc => habove hc.1
      obtain ⟨d, x, hmem, hle, -⟩ := hasLonger_iff.1 hlongOld
      have hbelow : ¬c <+: path := fun hc => (hfree _ hmem).2 (hc.trans hle)
      rw [Trie.follow_insert_of_apart s path t habove hbelow]
      exact h.inner hold hlongOld
  case outside =>
    intro path hnone hshort
    obtain ⟨hold, hne⟩ : rev.symbolOf path = none ∧ path ≠ c := by simpa [RevTable.symbolOf_concat] using hnone
    rw [hlonger, Bool.or_eq_false_iff] at hshort
    have habove : ¬path <+: c := fun hle => by simp [properPrefix_iff.2 ⟨hle, hne⟩] at hshort
    by_cases hbelow : c <+: path
    · exact Trie.follow_insert_of_below s c t hbelow hne.symm
    · rw [Trie.follow_insert_of_apart s path t habove hbelow, h.outside hold hshort.1]

theorem Trie.ofTable_represents {rev : RevTable} (h : rev.Pairwise fun a b => ¬a.1 <+: b.1 ∧ ¬b.1 <+: a.1) :
    (Trie.ofTable rev).Represents rev := by
  induction rev using List.reverseRecOn with
  | nil => exact ⟨nofun, nofun, fun _ _ => Trie.follow_missing _⟩
  | append_singleton rev r ih =>
    obtain ⟨hrev, -, hfree⟩ := List.pairwise_append.1 h
    have hofTable : Trie.ofTable (rev ++ [r]) = Trie.insert r.2 r.1 (Trie.ofTable rev) := by simp [Trie.ofTable]
    rw [hofTable]
    exact (ih hrev).insert r.2 fun a ha => hfree a ha r (List.mem_singleton_self r)

/-- Of two entries of a prefix-free table neither has a code that the other's begins with. -/
theorem PrefixFree.pairwise_invert {E : Codes} (h : PrefixFree E) :
    (invert E).Pairwise fun a b => ¬a.1 <+: b.1 ∧ ¬b.1 <+: a.1 := by
  refine List.pairwise_map.2 ((List.pairwise_map.1 h.1).imp_of_mem fun {a b} ha hb hne => ?_)
  have hnot : ∀ {a b : Symbol × Bits}, a ∈ E → b ∈ E → a.2 ≠ b.2 → ¬a.2 <+: b.2 := fun ha hb hne hle =>
    absurd (properPrefix_iff.2 ⟨hle, hne⟩) (by simp [h.2 _ ha _ hb])
  exact ⟨hnot ha hb hne, hnot hb ha hne.symm⟩

/-- R296: at the place the accumulated bits lead to, the walker does what DecodeSymbols does. -/
theorem walkFrom_eq_decodeFrom (p : Params) {root : Trie} {rev : RevTable} (h : root.Represents rev) (S : Bits) :
    ∀ (acc : Bits) (out : List Byte),
      walkFrom p root S (root.follow acc) (acc != []) out = decodeFrom p rev S acc out := by
  induction S with
  | nil =>
    intro acc out
    by_cases hacc : acc = [] <;> simp [walkFrom, decodeFrom, hacc]
  | cons b S ih =>
    intro acc out
    cases hsymbol : rev.symbolOf (acc ++ [b]) with
    | some c =>
      simp only [walkFrom, decodeFrom, ← Trie.follow_concat, hsymbol, h.code hsymbol]
      cases emit p out c with
      | error e => rfl
      | ok out' => exact ih [] out'
    | none =>
      cases hlonger : rev.hasLonger (acc ++ [b]) with
      | true =>
        obtain ⟨z, o, hnode⟩ := h.inner hsymbol hlonger
        have hnext := ih (acc ++ [b]) out
        have haway : (acc ++ [b] != []) = true := by simp
        rw [hnode, haway] at hnext
        simp only [walkFrom, ← Trie.follow_concat, hnode, hnext, decodeFrom_of_longer hsymbol hlonger]
      | false =>
        simp only [walkFrom, decodeFrom, ← Trie.follow_concat, h.outside hsymbol hlonger, hsymbol, hlonger,
          Bool.false_eq_true, if_false]

/-- Settles O40: an accepted table is prefix-free, so its trie represents it. -/
theorem treeWalkerAgrees : Obligations.TreeWalkerAgrees := by
  intro p E rev S hrev
  obtain ⟨-, -, -, -, hfree, rfl⟩ := buildReverse_eq_ok.1 hrev
  exact walkFrom_eq_decodeFrom p (Trie.ofTable_represents hfree.pairwise_invert) S [] []

end Sys2Proof.Machine
end

section
/-! PROOFS. The two command functions (40_commands.md R143, R144): the errors each can raise (60_exceptions.md R310),
that neither is ever stuck (42_priority_queue.md R185), the round trip (R148), the blob of one symbol (R149) and truncated
blobs (46_container.md R269). -/

namespace Sys2Proof.Machine

/-! ## What a stage can raise -/

/-- A result that ends without a value ends with one of these errors: in particular it is not stuck. -/
def RaisesOnly {α : Type} (errs : List Err) (r : Result α) : Prop :=
  ∀ h, r = .error h → ∃ e ∈ errs, h = .raise e

namespace RaisesOnly

variable {α β : Type} {errs errs' : List Err} {r : Result α}

theorem ok (a : α) : RaisesOnly errs (.ok a : Result α) := nofun

theorem raise {e : Err} (he : e ∈ errs) : RaisesOnly errs (raise e : Result α) := by
  intro h hh
  cases hh
  exact ⟨e, he, rfl⟩

theorem raiseIf {c : Prop} [Decidable c] {e : Err} (he : e ∈ errs) : RaisesOnly errs (raiseIf c e) := by
  intro h hh
  exact ⟨e, he, (raiseIf_eq_error.1 hh).2⟩

theorem bind {f : α → Result β} (hr : RaisesOnly errs r) (hf : ∀ a, r = .ok a → RaisesOnly errs (f a)) :
    RaisesOnly errs (r >>= f) := by
  intro h hh
  obtain herror | ⟨a, ha, herror⟩ := bind_eq_error.1 hh
  · exact hr h herror
  · exact hf a ha h herror

theorem mono (hr : RaisesOnly errs r) (hsub : errs ⊆ errs') : RaisesOnly errs' r := fun h hh =>
  (hr h hh).imp fun _ he => ⟨hsub he.1, he.2⟩

theorem mem_of_eq_raise (hr : RaisesOnly errs r) {e : Err} (h : r = Machine.raise e) : e ∈ errs := by
  obtain ⟨e', he', heq⟩ := hr (.raise e) h
  cases heq
  exact he'

/-- Such a result is a value or an error. -/
theorem ok_or_raise (hr : RaisesOnly errs r) : (∃ a, r = .ok a) ∨ ∃ e, r = Machine.raise e := by
  cases h : r with
  | ok a => exact .inl ⟨a, rfl⟩
  | error halt =>
    obtain ⟨e, -, rfl⟩ := hr halt h
    exact .inr ⟨e, rfl⟩

end RaisesOnly

theorem count_raisesOnly (p : Params) (c : Symbol) (freq : Freq) : RaisesOnly [.capSymbols] (Freq.count p c freq) := by
  rw [Freq.count]
  split_ifs
  · exact .ok _
  · exact .raise (by simp)
  · exact .ok _

theorem scanFrom_raisesOnly (p : Params) (T : List Byte) :
    ∀ (skip : Nat) (syms : List Symbol) (freq : Freq),
      RaisesOnly [.illFormedUtf8, .capSymbols] (scanFrom p skip T syms freq) := by
  induction T with
  | nil => intro skip syms freq; rw [scanFrom_nil]; exact .ok _
  | cons b T ih =>
    intro skip syms freq
    cases skip with
    | succ skip => exact ih skip syms freq
    | zero =>
      rw [scanFrom]
      split
      · exact .raise (by simp)
      · split
        · next h hcount =>
          obtain ⟨e, he, rfl⟩ := count_raisesOnly p _ freq h hcount
          exact .raise (List.mem_cons_of_mem _ he)
        · exact ih _ _ _

theorem splitContainer_raisesOnly (C : List Byte) : RaisesOnly [.shortHeader, .tableLen] (splitContainer C) := by
  unfold splitContainer
  split
  · split_ifs
    · exact .raise (by simp)
    · exact .ok _
  · exact .raise (by simp)

theorem parseTable_raisesOnly (X : List Byte) : RaisesOnly [.tableSyntax] (parseTable X) := by
  rw [parseTable]
  cases parseTableText X with
  | none => exact .raise (by simp)
  | some E => exact .ok E

theorem buildReverse_raisesOnly (p : Params) (E : Codes) :
    RaisesOnly [.emptyTable, .capSymbols, .capCodeLen, .dupKey, .notInjective, .notPrefixFree] (buildReverse p E) :=
  (RaisesOnly.raiseIf (by simp)).bind fun _ _ => (RaisesOnly.raiseIf (by simp)).bind fun _ _ =>
    (RaisesOnly.raiseIf (by simp)).bind fun _ _ => (RaisesOnly.raiseIf (by simp)).bind fun _ _ =>
      (RaisesOnly.raiseIf (by simp)).bind fun _ _ => (RaisesOnly.raiseIf (by simp)).bind fun _ _ => .ok _

theorem unpack_raisesOnly (P : List Byte) : RaisesOnly [.noPadding, .padRange, .padExceeds] (unpack P) := by
  cases P with
  | nil => exact .raise (by simp)
  | cons pad packed =>
    exact (RaisesOnly.raiseIf (by simp)).bind fun _ _ => (RaisesOnly.raiseIf (by simp)).bind fun _ _ => .ok _

theorem emit_raisesOnly (p : Params) (out : List Byte) (c : Symbol) : RaisesOnly [.capOutput] (emit p out c) := by
  rw [emit]
  split_ifs
  · exact .raise (by simp)
  · exact .ok _

theorem decodeFrom_raisesOnly (p : Params) (rev : RevTable) (S : Bits) :
    ∀ (acc : Bits) (out : List Byte),
      RaisesOnly [.badCode, .capOutput, .trailingBits] (decodeFrom p rev S acc out) := by
  induction S with
  | nil =>
    intro acc out
    rw [decodeFrom]
    split_ifs
    · exact .ok _
    · exact .raise (by simp)
  | cons b S ih =>
    intro acc out
    cases hsymbol : rev.symbolOf (acc ++ [b]) with
    | some c =>
      rw [decodeFrom_of_symbol hsymbol]
      exact ((emit_raisesOnly p out c).mono (by simp)).bind fun out' _ => ih [] out'
    | none =>
      simp only [decodeFrom, hsymbol]
      split_ifs
      · exact ih _ _
      · exact .raise (by simp)

/-- R310: what DECOMPRESS can report after its IN_LEN check. -/
theorem decompressBlob_raisesOnly (p : Params) (C : List Byte) :
    RaisesOnly [.shortHeader, .tableLen, .tableSyntax, .emptyTable, .capSymbols, .capCodeLen, .dupKey, .notInjective,
      .notPrefixFree, .noPadding, .padRange, .padExceeds, .badCode, .capOutput, .trailingBits] (decompressBlob p C) :=
  ((splitContainer_raisesOnly C).mono (by simp)).bind fun _ _ =>
    ((parseTable_raisesOnly _).mono (by simp)).bind fun _ _ =>
      ((buildReverse_raisesOnly p _).mono (by simp)).bind fun _ _ =>
        ((unpack_raisesOnly _).mono (by simp)).bind fun _ _ => (decodeFrom_raisesOnly p _ _ _ _).mono (by simp)

/-! ## COMPRESS is never stuck -/

theorem freqOf_ne_nil {syms : List Symbol} (h : syms ≠ []) : freqOf syms ≠ [] := by
  obtain ⟨c, rest, rfl⟩ := List.exists_cons_of_ne_nil h
  rw [freqOf, List.eraseDups_cons]
  exact List.cons_ne_nil _ _

theorem map_fst_freqOf (syms : List Symbol) : (freqOf syms).map (·.1) = syms.eraseDups := by
  simp [freqOf, Function.comp_def]

/-- R240: the codes of symbols that all stand in the table can be joined. -/
theorem concatCodes_ok {codes : Codes} (syms : List Symbol) (h : ∀ s ∈ syms, s ∈ codes.map (·.1)) :
    ∃ bits, concatCodes codes syms = .ok bits := by
  induction syms with
  | nil => exact ⟨[], rfl⟩
  | cons s syms ih =>
    obtain ⟨hs, hsyms⟩ := List.forall_mem_cons.1 h
    obtain ⟨rest, hrest⟩ := ih hsyms
    cases hlookup : codes.lookup s with
    | none =>
      obtain ⟨e, he, rfl⟩ := List.mem_map.1 hs
      exact absurd (List.lookup_eq_none_iff.1 hlookup e he) (by simp)
    | some c => exact ⟨c ++ rest, by simp only [concatCodes, hlookup, orStuck_some, hrest, ok_bind]⟩

/-- R143: once the text has scanned, COMPRESS has its code table and its bits, and only the two capacity checks are
left. -/
theorem compressText_of_scan {p : Params} {T : List Byte} {syms : List Symbol} {freq : Freq} (hT : T ≠ [])
    (hscan : scanAndCount p T = .ok (syms, freq)) :
    ∃ codes bits, codesOf freq = .ok codes ∧ concatCodes codes syms = .ok bits ∧
      compressText p T =
        (raiseIf (∃ e ∈ codes, e.2.length > p.maxCodeLen) .capCodeLen >>= fun _ =>
          raiseIf ((frame (serializeTable codes) (pack bits)).length > p.outBytes) .capOutput >>= fun _ =>
            .ok (frame (serializeTable codes) (pack bits))) := by
  obtain ⟨rfl, -, -, -⟩ := scanAndCount_eq_ok hscan
  obtain ⟨codes, hcodes, hkeys, -, -⟩ := codeTableIsPrefixFree _ (freqOf_ne_nil (scanAndCount_ne_nil hT hscan))
  obtain ⟨bits, hbits⟩ := concatCodes_ok (codes := codes) syms fun s hs => by
    rw [hkeys.mem_iff, map_fst_freqOf]
    exact List.mem_eraseDups.2 hs
  obtain ⟨⟨nodes, root⟩, hbuild, hgen⟩ := bind_eq_ok.1 hcodes
  have hempty : ¬T.length = 0 := mt List.length_eq_zero_iff.1 hT
  refine ⟨codes, bits, hcodes, hbits, ?_⟩
  simp only [compressText, raiseIf_of_neg _ hempty, hscan, hbuild, hgen, hbits, checkCodeLen, ok_bind]

/-- R310: what COMPRESS can report after its IN_LEN check. -/
theorem compressText_raisesOnly (p : Params) (T : List Byte) :
    RaisesOnly [.zeroLength, .illFormedUtf8, .capSymbols, .capCodeLen, .capOutput] (compressText p T) := by
  by_cases hT : T = []
  · rw [hT, compressText_nil]
    exact .raise (by simp)
  cases hscan : scanAndCount p T with
  | error halt =>
    have hempty : ¬T.length = 0 := mt List.length_eq_zero_iff.1 hT
    have hresult : compressText p T = .error halt := by
      simp only [compressText, raiseIf_of_neg _ hempty, hscan, ok_bind, error_bind]
    obtain ⟨e, he, rfl⟩ := scanFrom_raisesOnly p T 0 [] [] halt hscan
    rw [hresult]
    exact (RaisesOnly.raise he).mono (by simp)
  | ok scan =>
    obtain ⟨codes, bits, -, -, hresult⟩ := compressText_of_scan hT hscan
    rw [hresult]
    exact (RaisesOnly.raiseIf (by simp)).bind fun _ _ => (RaisesOnly.raiseIf (by simp)).bind fun _ _ => .ok _

/-- Settles O20: each stage raises the errors of its own checks. -/
theorem errorsOfEachCommand : Obligations.ErrorsOfEachCommand := by
  intro p bs e
  refine ⟨fun h => ?compress, fun h => ?decompress⟩
  case compress => simpa using (compressText_raisesOnly p bs).mem_of_eq_raise h
  case decompress => simpa using (decompressBlob_raisesOnly p bs).mem_of_eq_raise h

theorem commandResult_ok_or_raise (s : State) :
    (∃ out, s.commandResult = .ok out) ∨ ∃ e, s.commandResult = raise e := by
  by_cases hlen : s.inputLength > s.params.inBytes
  · exact .inr ⟨_, State.commandResult_of_gt hlen⟩
  rw [State.commandResult_of_le (Nat.not_lt.1 hlen)]
  cases s.curOp with
  | compress => exact (compressText_raisesOnly _ _).ok_or_raise
  | decompress => exact (decompressBlob_raisesOnly _ _).ok_or_raise

/-- Settles O17: the command's result is an output or an error, and completion commits either. -/
theorem completionIsNeverStuck : Obligations.CompletionIsNeverStuck := by
  intro s hbusy hrst
  obtain ⟨out, hout⟩ | ⟨e, he⟩ := commandResult_ok_or_raise s
  · exact ⟨_, engineTurn_of_ok hbusy hrst hout, rfl, rfl⟩
  · exact ⟨_, engineTurn_of_raise hbusy hrst he, rfl, rfl⟩

/-! ## A blob COMPRESS made -/

/-- R148: the table of a blob is one that DECOMPRESS accepts, and its payload is the packed codes of the text. -/
theorem compressText_blob {p : Params} {T blob : List Byte} (hp : p.Legal) (h : compressText p T = .ok blob) :
    ∃ syms codes bits, utf8EncodeAll syms = T ∧ concatCodes codes syms = .ok bits ∧
      blob = frame (serializeTable codes) (pack bits) ∧ (serializeTable codes).length < 2 ^ 32 ∧
      (∀ e ∈ codes, isScalar e.1 ∧ e.2 ≠ []) ∧ buildReverse p codes = .ok (invert codes) := by
  obtain ⟨hT, syms, freq, nodes, root, codes, bits, hscan, hbuild, hgen, hlen, hbits, rfl, hfits⟩ :=
    compressText_eq_ok h
  obtain ⟨-, ⟨-, hout⟩, -, -⟩ := hp
  obtain ⟨rfl, hmax, hscalar, htext⟩ := scanAndCount_eq_ok hscan
  have hcodes : codesOf (freqOf syms) = .ok codes := by simp only [codesOf, hbuild, hgen, ok_bind]
  obtain ⟨codes', hcodes', hkeys, hfree, -⟩ := codeTableIsPrefixFree _ (freqOf_ne_nil (scanAndCount_ne_nil hT hscan))
  obtain rfl : codes = codes' := Except.ok.inj (hcodes.symm.trans hcodes')
  rw [map_fst_freqOf] at hkeys
  have hlength : codes.length = syms.eraseDups.length := by simpa using hkeys.length_eq
  refine ⟨syms, codes, bits, htext, hbits, rfl, ?_, fun e he => ⟨?_, genCodes_ne_nil hgen e he⟩, ?_⟩
  · simp only [frame, List.length_append] at hfits
    omega
  · exact hscalar _ (List.mem_eraseDups.1 (hkeys.mem_iff.1 (List.mem_map_of_mem he)))
  · refine buildReverse_eq_ok.2 ⟨?_, hlength.trans_le hmax, hlen, hkeys.nodup_iff.2 (nodup_eraseDups syms), hfree, rfl⟩
    rintro rfl
    exact freqOf_ne_nil (scanAndCount_ne_nil hT hscan)
      (List.eq_nil_of_length_eq_zero ((length_freqOf syms).trans hlength.symm))

/-- Settles O21: every stage of DECOMPRESS undoes its counterpart. -/
theorem decompressInvertsCompress : Obligations.DecompressInvertsCompress := by
  intro p T blob hp hblob hfits
  obtain ⟨syms, codes, bits, rfl, hbits, rfl, hlength, hcodes, hrev⟩ := compressText_blob hp hblob
  rw [decompressBlob_frame_serializeTable hcodes hlength, hrev, ok_bind, unpack_pack, ok_bind,
    decodeOfConcatenatedCodes p codes _ syms bits hrev (fun e he => (hcodes e he).2) hbits, if_pos hfits]

theorem length_frame (text payload : List Byte) : (frame text payload).length = 4 + text.length + payload.length := by
  rw [frame, List.length_append, List.length_append]
  rfl

/-- The first bytes of a framed container: the header and then the first bytes of its two regions. -/
theorem take_frame (text payload : List Byte) (n : Nat) :
    (frame text payload).take (4 + n) = lengthField text.length ++ (text ++ payload).take n := by
  rw [frame, List.append_assoc]
  exact List.take_length_add_append (l₁ := lengthField text.length) n

/-- R264: a container whose table region is cut short. -/
theorem splitContainer_cut_table {text payload : List Byte} (hlength : text.length < 2 ^ 32) {n : Nat}
    (hn : n < text.length) : splitContainer ((frame text payload).take (4 + n)) = raise .tableLen := by
  rw [take_frame, lengthField, List.cons_append, List.cons_append, List.cons_append, List.cons_append,
    splitContainer_cons_eq_ite, be32_lengthField hlength, if_pos]
  rw [List.nil_append, List.length_take]
  omega

/-- Settles O23: the cut container is shorter than its header, or than the table the header counts, or is a whole table
with an empty payload. -/
theorem truncatedBlobIsRejected : Obligations.TruncatedBlobIsRejected := by
  intro p T blob text payload n hp hblob hsplit
  obtain ⟨syms, codes, bits, -, -, rfl, hlength, hcodes, hrev⟩ := compressText_blob hp hblob
  rw [splitContainer_frame hlength] at hsplit
  cases hsplit
  refine ⟨fun hn => ?header, fun hlow hhigh => ?table, fun hn => ?payload⟩
  case header => exact decompressBlob_of_short p (by rw [List.length_take]; omega)
  case table =>
    obtain ⟨n, rfl⟩ := Nat.exists_eq_add_of_le hlow
    rw [decompressBlob, splitContainer_cut_table hlength (by omega), raise_bind]
  case payload =>
    have hframe : (frame (serializeTable codes) (pack bits)).take n = frame (serializeTable codes) [] := by
      rw [hn, take_frame, List.take_left, frame, List.append_nil]
    rw [hframe, decompressBlob_frame_serializeTable hcodes hlength, hrev, ok_bind, unpack_nil, raise_bind]

/-! ## The blob of one symbol -/

theorem eraseDups_replicate_succ (c : Symbol) (n : Nat) : (List.replicate (n + 1) c).eraseDups = [c] := by
  induction n with
  | zero => rfl
  | succ n ih => rw [List.replicate_succ', eraseDups_concat_of_mem (by simp), ih]

theorem freqOf_replicate (c : Symbol) {n : Nat} (hn : 1 ≤ n) : freqOf (List.replicate n c) = [(c, n)] := by
  obtain ⟨n, rfl⟩ := Nat.exists_eq_add_one.2 hn
  rw [freqOf, eraseDups_replicate_succ, List.map_singleton, List.count_replicate_self]

/-- R221: one symbol has the code "0". -/
theorem codesOf_singleton (c : Symbol) (n : Nat) : codesOf [(c, n)] = .ok [(c, [false])] := rfl

theorem concatCodes_replicate (c : Symbol) (n : Nat) :
    concatCodes [(c, [false])] (List.replicate n c) = .ok (List.replicate n false) := by
  induction n with
  | zero => rfl
  | succ n ih => simp [concatCodes, List.replicate_succ, ih]

theorem bitsToBytes_replicate_false (m : Nat) :
    bitsToBytes (List.replicate (8 * m) false) = List.replicate m 0x00#8 := by
  induction m with
  | zero => rfl
  | succ m ih =>
    rw [Nat.mul_succ, List.replicate_succ]
    exact congrArg (0x00#8 :: ·) ih

/-- R242, R243: zero bits are packed with zero filler. -/
theorem pack_replicate_false (n : Nat) :
    pack (List.replicate n false) =
      BitVec.ofNat 8 ((8 - n % 8) % 8) :: List.replicate ((n + 7) / 8) 0x00#8 := by
  have hwhole : n + (8 - n % 8) % 8 = 8 * ((n + 7) / 8) := by omega
  rw [pack, List.length_replicate, padCount, List.replicate_append_replicate, hwhole, bitsToBytes_replicate_false]

/-- Settles O22: the text scans to one symbol, whose code is "0", and both capacity checks pass. -/
theorem singleSymbolBlob : Obligations.SingleSymbolBlob := by
  intro p c n hp hc hn hfits
  obtain ⟨-, -, ⟨hsyms, -⟩, ⟨hcodeLen, -⟩⟩ := hp
  have htext : (List.replicate n (utf8Encode c)).flatten = utf8EncodeAll (List.replicate n c) := by
    rw [utf8EncodeAll, List.flatMap_def, List.map_replicate]
  have hone : (List.replicate n c).eraseDups.length = 1 := by rw [← length_freqOf, freqOf_replicate c hn]; rfl
  obtain ⟨hscan, -⟩ := scanReportsTheFirstError p (List.replicate n c) [] (fun d hd => List.eq_of_mem_replicate hd ▸ hc)
    (hone.trans_le hsyms)
  have hne : utf8EncodeAll (List.replicate n c) ≠ [] := by
    refine List.ne_nil_of_length_pos (Nat.lt_of_lt_of_le hn ?_)
    simpa using length_le_length_utf8EncodeAll (List.replicate n c)
  obtain ⟨codes, bits, hcodes, hbits, hresult⟩ := compressText_of_scan hne hscan
  have hfreq : codesOf (freqOf (List.replicate n c)) = .ok codes := hcodes
  rw [freqOf_replicate c hn, codesOf_singleton] at hfreq
  cases hfreq
  rw [concatCodes_replicate] at hbits
  cases hbits
  have hshort : ¬∃ e ∈ [(c, [false])], e.2.length > p.maxCodeLen := by
    simpa using Nat.one_le_iff_ne_zero.1 hcodeLen
  have htable : serializeTable [(c, [false])] =
      [chOpen, chQuote] ++ escapeKey c ++ [chQuote, chColon, chQuote, chZero, chQuote, chClose] := by
    simp [serializeTable, entriesText, entryText, codeText]
  have hblob : ¬(frame (serializeTable [(c, [false])]) (pack (List.replicate n false))).length > p.outBytes := by
    rw [length_frame, pack_length, List.length_replicate, htable]
    omega
  rw [htext, hresult, raiseIf_of_neg _ hshort, ok_bind, raiseIf_of_neg _ hblob, ok_bind, frame, pack_replicate_false,
    htable]

end Sys2Proof.Machine
end

section
/-! PROOFS. Runs of the machine: an accepted command completes (70_reset_and_hazards.md R360), the WAIT loop ends, and
COPYOUT copies the output (30_encoding.md R119). -/

namespace Sys2Proof.Machine

/-! ## Runs -/

/-- Some run of at most k steps ends in a state with the property. -/
def ReachesWithin (k : Nat) (s : State) (P : State → Prop) : Prop :=
  ∃ j t, j ≤ k ∧ Host.Core.run Sys2Proof.core j s = .next t ∧ P t

theorem ReachesWithin.here {k : Nat} {s : State} {P : State → Prop} (h : P s) : ReachesWithin k s P :=
  ⟨0, s, Nat.zero_le _, rfl, h⟩

theorem ReachesWithin.step {k : Nat} {s t : State} {P : State → Prop} (hstep : step s = .next t)
    (h : ReachesWithin k t P) : ReachesWithin (k + 1) s P := by
  obtain ⟨j, u, hj, hrun, hu⟩ := h
  refine ⟨j + 1, u, Nat.succ_le_succ hj, ?_, hu⟩
  have hcore : Sys2Proof.core.step s = .next t := hstep
  simp only [Host.Core.run, hcore, hrun]

/-- With rst deasserted a host input is the host's step. -/
theorem step_of_host {s : State} (hrst : s.rst = false) {op : HostOp} {rest : List Input}
    (hinputs : s.inputs = .host op :: rest) : step s = hostStep op { s with inputs := rest } := by
  rw [step_of_cons hinputs, takeInput, hostTurn]
  exact if_neg (by simp [hrst])

/-- A completion leaves the engine IDLE with DONE set, and the rest of the inputs and rst as they were. -/
theorem engineTurn_completes {s : State} (hbusy : s.engine = .busy) (hrst : s.rst = false) :
    ∃ t, engineTurn s = .next t ∧ t.engine = .idle ∧ t.statusDone = true ∧ t.inputs = s.inputs ∧ t.rst = s.rst := by
  obtain ⟨t, hturn, hidle, hdone⟩ := completionIsNeverStuck s hbusy hrst
  obtain ⟨⟨-, -, -, -, -, -, hinputs, hrst', -⟩, -⟩ := completionFrame s t hturn
  exact ⟨t, hturn, hidle, hdone, hinputs, hrst'⟩

/-! ## An accepted command completes -/

/-- While BUSY a bus write leaves the engine BUSY, and writes neither rst nor the inputs to come. -/
theorem memWrite_of_busy_frame {s t : State} (hbusy : s.engine = .busy) {a v : Word} {n : Nat}
    (h : memWrite a n v s = .next t) : t.engine = .busy ∧ t.rst = s.rst ∧ t.inputs = s.inputs := by
  obtain rfl | rfl | rfl | rfl | ⟨-, -, hexec⟩ | ⟨off, -, rfl⟩ := memWrite_cases h
  · exact ⟨hbusy, rfl, rfl⟩
  · exact ⟨hbusy, rfl, rfl⟩
  · exact ⟨hbusy, rfl, rfl⟩
  · rw [State.writeInLen_of_busy hbusy]
    exact ⟨hbusy, rfl, rfl⟩
  · rw [exec_of_busy _ hbusy] at hexec
    cases hexec
    exact ⟨hbusy, rfl, rfl⟩
  · rw [State.writeInWindow_of_busy hbusy]
    exact ⟨hbusy, rfl, rfl⟩

/-- A quiet input leaves a BUSY engine BUSY with one input less, or completes its command. -/
theorem step_of_quiet {s : State} (hbusy : s.engine = .busy) (hrst : s.rst = false) {i : Input} {rest : List Input}
    (hinputs : s.inputs = i :: rest) (hquiet : QuietInput s.params i) :
    ∃ t, step s = .next t ∧ ((t.engine = .busy ∧ t.rst = false ∧ t.inputs = rest) ∨
      (t.engine = .idle ∧ t.statusDone = true)) := by
  match i with
  | .host (.read a n) =>
    obtain ⟨t, ht⟩ := hostRead_next (s := { s with inputs := rest }) (fun _ u => u) hquiet
    obtain ⟨v, u, hread, rfl⟩ := hostRead_cases ht
    refine ⟨_, (step_of_host hrst hinputs).trans ht, .inl ?_⟩
    obtain rfl | ⟨-, rfl⟩ := memRead_state hread <;> exact ⟨hbusy, hrst, rfl⟩
  | .host (.write a n v) =>
    obtain ⟨t, ht⟩ := memWrite_next (v := v) (s := State.respond .written { s with inputs := rest })
      (regionOf_ne_none_of_permitted hquiet)
    obtain ⟨hstill, hrst', hinputs'⟩ := memWrite_of_busy_frame (by exact hbusy) ht
    exact ⟨t, (step_of_host hrst hinputs).trans ht, .inl ⟨hstill, hrst'.trans hrst, hinputs'⟩⟩
  | .engine =>
    obtain ⟨t, ht, hidle, hdone, -⟩ := engineTurn_completes (s := { s with inputs := rest }) hbusy hrst
    exact ⟨t, (step_of_cons hinputs).trans ht, .inr ⟨hidle, hdone⟩⟩

theorem completes_within (inputs : List Input) :
    ∀ {s : State}, s.inputs = inputs → s.engine = .busy → s.rst = false → (∀ i ∈ inputs, QuietInput s.params i) →
      ReachesWithin (inputs.length + 1) s fun t => t.engine = .idle ∧ t.statusDone = true := by
  induction inputs with
  | nil =>
    intro s hinputs hbusy hrst _
    obtain ⟨t, ht, hidle, hdone, -⟩ := engineTurn_completes hbusy hrst
    exact .step ((step_of_nil hinputs).trans ht) (.here ⟨hidle, hdone⟩)
  | cons i rest ih =>
    intro s hinputs hbusy hrst hquiet
    obtain ⟨hi, hrest⟩ := List.forall_mem_cons.1 hquiet
    obtain ⟨t, ht, ⟨hbusy', hrst', hinputs'⟩ | hdone⟩ := step_of_quiet hbusy hrst hinputs hi
    · exact .step ht (ih hinputs' hbusy' hrst' (step_params ht ▸ hrest))
    · exact .step ht (.here hdone)

/-- Settles O58: each quiet input is used up, and when none is left the engine completes. -/
theorem acceptedCommandCompletes : Obligations.AcceptedCommandCompletes :=
  fun s hbusy hrst hquiet => completes_within s.inputs rfl hbusy hrst hquiet

/-! ## The WAIT loop -/

/-- STATUS.DONE is bit 1 of what STATUS reads (10_state.md R26). -/
theorem State.getLsbD_statusWord_one (s : State) : s.statusWord.getLsbD 1 = s.statusDone := by
  have hflags : ∀ busy done err ovr wlock : Bool,
      (flagBit 0 busy ||| flagBit 1 done ||| flagBit 2 err ||| flagBit 3 ovr ||| flagBit 4 wlock).getLsbD 1 = done := by
    decide
  exact hflags _ _ _ _ _

/-- R119: a poll ends the loop when DONE is set, and otherwise comes again. -/
theorem waitPoll_eq (polls : Nat) (s : State) :
    waitPoll polls s = .next (if s.statusDone then s.respond (.value s.statusWord)
      else (s.respond (.value s.statusWord)).push (.wait (polls - 1))) := by
  rw [← s.getLsbD_statusWord_one]
  rfl

theorem hostWait_of_idle {s : State} (h : s.engine = .idle) (polls : Nat) : hostWait polls s = waitPoll polls s := by
  simp [hostWait, h]

theorem hostWait_zero_of_busy {s : State} (h : s.engine = .busy) : hostWait 0 s = engineTurn (s.push (.wait 0)) := by
  simp [hostWait, h]

theorem hostWait_succ_of_busy {s : State} (h : s.engine = .busy) (polls : Nat) :
    hostWait (polls + 1) s = waitPoll (polls + 1) s := by
  simp [hostWait, h]

/-- With DONE set a WAIT ends at its next poll. -/
theorem wait_ends_of_done {s : State} (hidle : s.engine = .idle) (hdone : s.statusDone = true) (hrst : s.rst = false)
    {rest : List Input} (hinputs : s.inputs = .host (.wait 0) :: rest) :
    ReachesWithin 1 s fun t => t.inputs = rest ∧ t.engine = .idle ∧ t.statusDone = true := by
  refine .step (t := State.respond (.value s.statusWord) { s with inputs := rest }) ?_ (.here ⟨rfl, hidle, hdone⟩)
  rw [step_of_host hrst hinputs, hostStep, hostWait_of_idle (by exact hidle), waitPoll_eq]
  exact congrArg Host.Outcome.next (if_pos hdone)

theorem wait_ends_within (rest : List Input) (polls : Nat) :
    ∀ {s : State}, s.engine = .busy → s.rst = false → s.statusDone = false → s.inputs = .host (.wait polls) :: rest →
      ReachesWithin (polls + 2) s fun t => t.inputs = rest ∧ t.engine = .idle ∧ t.statusDone = true := by
  induction polls with
  | zero =>
    intro s hbusy hrst hdone hinputs
    obtain ⟨t, ht, hidle, hdone', hinputs', hrst'⟩ :=
      engineTurn_completes (s := State.push (.wait 0) { s with inputs := rest }) hbusy hrst
    refine .step (t := t) ?_ (wait_ends_of_done hidle hdone' (hrst'.trans hrst) hinputs')
    rw [step_of_host hrst hinputs, hostStep, hostWait_zero_of_busy (by exact hbusy), ht]
  | succ polls ih =>
    intro s hbusy hrst hdone hinputs
    refine .step (t := State.push (.wait polls) (State.respond (.value s.statusWord) { s with inputs := rest })) ?_
      (ih hbusy hrst hdone rfl)
    rw [step_of_host hrst hinputs, hostStep, hostWait_succ_of_busy (by exact hbusy), waitPoll_eq]
    exact congrArg Host.Outcome.next (if_neg (by simp [hdone]))

/-- Settles O59: each poll while BUSY uses up one of the polls, the completion comes next, and the poll after it sees
DONE. -/
theorem waitLoopEnds : Obligations.WaitLoopEnds :=
  fun _ polls rest hbusy hrst hdone hinputs => wait_ends_within rest polls hbusy hrst hdone hinputs

/-! ## COPYOUT -/

/-- COPYOUT of n bytes from byte i on is still to come: bytes below i are copied, and nothing else has changed. -/
structure Copying (s : State) (rest : List Input) (i n : Nat) (t : State) : Prop where
  idle : t.engine = .idle
  rst : t.rst = false
  params : t.params = s.params
  inputs : t.inputs = .host (.copyFrom i n) :: rest
  copied : ∀ k, k < i → t.inByte k = s.outByte k
  rest : ∀ k, i ≤ k → t.inByte k = s.inByte k
  output : ∀ k, t.outByte k = s.outByte k

theorem toNat_outAddr {i : Nat} (h : i < 2 ^ 30) : (outAddr i).toNat = 0x80000000 + i := by
  rw [outAddr, outBase_eq, BitVec.toNat_ofNat]
  omega

theorem toNat_inAddr {i : Nat} (h : i < 2 ^ 30) : (inAddr i).toNat = 0x40000000 + i := by
  rw [inAddr, inBase_eq, BitVec.toNat_ofNat]
  omega

/-- R8 OUT_BASE+i while IDLE: the value read has OUT[i] in its first lane. -/
theorem memRead_outAddr {s : State} (hidle : s.engine = .idle) (hlegal : s.params.Legal) {i : Nat}
    (hi : i < s.params.outBytes) : ∃ v, memRead (outAddr i) 1 s = some (v, s) ∧ v.extractLsb' 0 8 = s.outByte i := by
  have haddr : (outAddr i).toNat = 0x80000000 + i := toNat_outAddr (hi.trans_le hlegal.2.1.2)
  have hperm : Permitted s.params (outAddr i) 1 := .inr (.inr ⟨.inl rfl, Nat.mod_one _, by omega, by omega⟩)
  obtain ⟨-, hread, -⟩ := outWindowAccesses s (outAddr i) 0#32 1 hperm hlegal (by omega)
  obtain ⟨v, hv, hlanes⟩ := hread hidle
  exact ⟨v, hv, by simpa [haddr] using hlanes 0 Nat.zero_lt_one⟩

/-- W8 IN_BASE+i while IDLE: the first lane goes to IN[i], and nothing else changes. -/
theorem memWrite_inAddr {s : State} (hidle : s.engine = .idle) (hlegal : s.params.Legal) {i : Nat}
    (hi : i < s.params.inBytes) (v : Word) :
    ∃ m, memWrite (inAddr i) 1 v s = .next { s with inMem := m } ∧
      State.inByte { s with inMem := m } i = v.extractLsb' 0 8 ∧
      ∀ k, k ≠ i → State.inByte { s with inMem := m } k = s.inByte k := by
  have hmax : i < 2 ^ 30 := hi.trans_le hlegal.1.2
  have haddr : (inAddr i).toNat = 0x40000000 + i := toNat_inAddr hmax
  obtain ⟨-, haccess⟩ := inWindowAccesses s (inAddr i) v 1 (by omega) (by omega)
  obtain ⟨-, hwrite, -⟩ := haccess (.inl rfl) (Nat.mod_one _) (by omega)
  obtain ⟨t, ht, hframe, hbyte, hothers, -⟩ := hwrite hidle
  rw [hframe] at ht hbyte hothers
  refine ⟨t.inMem, ht, by simpa [haddr] using hbyte 0 Nat.zero_lt_one, fun k hk => hothers k (by omega)⟩

/-- One pass of COPYOUT: the read of a byte and the write of it. -/
theorem Copying.next {s t : State} {rest : List Input} {i n : Nat} (hlegal : s.params.Legal)
    (hout : n ≤ s.params.outBytes) (hin : n ≤ s.params.inBytes) (hi : i < n) (h : Copying s rest i n t) {k : Nat}
    {P : State → Prop} (hP : ∀ u, Copying s rest (i + 1) n u → ReachesWithin k u P) : ReachesWithin (k + 2) t P := by
  obtain ⟨hidle, hrst, hparams, hinputs, hcopied, hrest, houtput⟩ := h
  obtain ⟨v, hread, hlane⟩ := memRead_outAddr (s := { t with inputs := rest }) hidle (hparams ▸ hlegal) (i := i)
    (show i < t.params.outBytes by rw [hparams]; omega)
  obtain ⟨m, hwrite, hbyte, hothers⟩ := memWrite_inAddr
    (s := { t with inputs := .host (.copyFrom (i + 1) n) :: rest, response := .written }) hidle (hparams ▸ hlegal)
    (show i < t.params.inBytes by rw [hparams]; omega) v
  have hreadStep : step t = .next { t with
      inputs := .host (.write (inAddr i) 1 v) :: .host (.copyFrom (i + 1) n) :: rest, response := .value v } := by
    rw [step_of_host hrst hinputs, hostStep, hostCopyFrom, if_pos hi, hostRead, hread]
    rfl
  have hwriteStep : step { t with
      inputs := .host (.write (inAddr i) 1 v) :: .host (.copyFrom (i + 1) n) :: rest, response := .value v } =
      .next { t with inputs := .host (.copyFrom (i + 1) n) :: rest, response := .written, inMem := m } := by
    rw [step_of_host (by exact hrst) rfl]
    exact hwrite
  refine .step hreadStep (.step hwriteStep (hP _ ⟨hidle, hrst, hparams, rfl, fun k hk => ?_,
    fun k hk => (hothers k (by omega)).trans (hrest k (by omega)), houtput⟩))
  obtain rfl | hki : k = i ∨ k < i := by omega
  · exact hbyte.trans (hlane.trans (houtput k))
  · exact (hothers k hki.ne).trans (hcopied k hki)

/-- What COPYOUT leaves (30_encoding.md R119). -/
def Copied (s : State) (rest : List Input) (t : State) : Prop :=
  t.inputs = rest ∧ t.inLen = s.outLen ∧ (∀ i, i < s.outLen.toNat → t.inByte i = s.outByte i) ∧
    (∀ i, s.outLen.toNat ≤ i → t.inByte i = s.inByte i) ∧ ∀ i, t.outByte i = s.outByte i

/-- The last access of COPYOUT: W32 IN_LEN. -/
theorem Copying.done {s t : State} {rest : List Input} (h : Copying s rest s.outLen.toNat s.outLen.toNat t) :
    ReachesWithin 1 t (Copied s rest) := by
  obtain ⟨hidle, hrst, -, hinputs, hcopied, hrest, houtput⟩ := h
  refine .step (t := { t with inputs := rest, response := .written, inLen := s.outLen }) ?_
    (.here ⟨rfl, rfl, hcopied, hrest, houtput⟩)
  rw [step_of_host hrst hinputs, hostStep, hostCopyFrom, if_neg (Nat.lt_irrefl _), hostWrite, BitVec.ofNat_toNat,
    BitVec.setWidth_eq]
  exact congrArg Host.Outcome.next (State.writeInLen_of_idle (by exact hidle) s.outLen)

theorem Copying.finishes {s : State} {rest : List Input} (hlegal : s.params.Legal)
    (hout : s.outLen.toNat ≤ s.params.outBytes) (hin : s.outLen.toNat ≤ s.params.inBytes) (m : Nat) :
    ∀ {i : Nat} {t : State}, i + m = s.outLen.toNat → Copying s rest i s.outLen.toNat t →
      ReachesWithin (2 * m + 1) t (Copied s rest) := by
  induction m with
  | zero =>
    rintro i t rfl h
    exact h.done
  | succ m ih =>
    intro i t hm h
    exact h.next hlegal hout hin (by omega) fun u hu => ih (by omega) hu

/-- Settles O60: the read of OUT_LEN starts the copy at byte 0, each pass copies one byte, and the last access writes
IN_LEN. -/
theorem copyOutCopiesTheOutput : Obligations.CopyOutCopiesTheOutput := by
  intro s rest hidle hrst hlegal hout hin hinputs
  have hstart : Copying s rest 0 s.outLen.toNat
      { s with inputs := .host (.copyFrom 0 s.outLen.toNat) :: rest, response := .value s.outLen } :=
    ⟨hidle, hrst, rfl, rfl, nofun, fun _ _ => rfl, fun _ => rfl⟩
  have hfinish := hstart.finishes hlegal hout hin s.outLen.toNat (Nat.zero_add _)
  obtain ⟨k, t, -, hrun, hcopied⟩ := ReachesWithin.step (step_of_host hrst hinputs) hfinish
  exact ⟨k, t, hrun, hcopied⟩

end Sys2Proof.Machine
end
